-- ==== Sys2Proof/Word.lean ====
section
/-! DEFINITION. The word types of the block: 20_memory R72 (all storage is byte-granular), 40_codec R130
(16-bit CRC), 10_state R40 (32-bit counters). -/

namespace Sys2Proof

/-- A byte: an unsigned 8-bit value (00_scope, notation). -/
abbrev Byte := BitVec 8

/-- A 16-bit value: the CRC and the payload length field. -/
abbrev Half := BitVec 16

/-- An event counter: unsigned 32 bits, wrapping (10_state R40). -/
abbrev Counter := BitVec 32

end Sys2Proof
end

