-- ==== Sys2Proof/Config.lean ====
section
/-! DEFINITION. What the spec leaves open: the free value of 42_spi_adapter R227. The instance parameters of 00_scope
R8 are arguments of State.powerOn. -/

namespace Sys2Proof

/-- FREE VALUE (log 7). The byte the SPI host samples while the block does not drive MISO: "a free draw" (42 R227).
The argument is the number of the step, so that no two draws are known to agree. -/
opaque Config.undrivenMiso : Nat → Byte

end Sys2Proof
end

