-- ==== Sys2Proof/Syntax.lean ====
section
/-! DEFINITION. The operations of the block as syntax: one constructor per row of spec/opcode_table.json
(30_encoding R101), with the typed operands of R103. -/

namespace Sys2Proof

/-- The adapter variants (00_scope R3). -/
inductive Variant where
  | uart
  | spi
  deriving DecidableEq, Repr

/-- Who issues an operation (00_scope R12). -/
inductive Agent where
  | client
  | peer
  | txe
  deriving DecidableEq, Repr

/-- The `hdr` operand (30 R103): the header fields but for the length, which the encoder computes (R91). -/
structure Hdr where
  ep   : Byte
  ctrl : Byte
  seq  : Byte
  ack  : Byte
  deriving DecidableEq, Repr

/-- The configuration fields both variants have (00_scope R9). -/
structure CommonCfg where
  rxq        : Nat
  txq        : Nat
  maxPayload : Nat
  epCount    : Nat
  seqMod     : Nat
  deriving DecidableEq, Repr

/-- The hardware flow-control modes (00_scope R9, FLOW). -/
inductive FlowMode where
  | none
  | ctsRts
  deriving DecidableEq, Repr

/-- FLOW as a SETUP operand carries it. SETUP checks it (43 R261, BAD_FLOW), so the operand can hold a value that is
neither mode: `other`, with a byte that spells neither (log 9). -/
inductive FlowArg where
  | mode (m : FlowMode)
  | other (code : Byte)
  deriving DecidableEq, Repr

/-- A UART record as SETUP receives it: URXF may be omitted (43 R260). -/
structure UartCfgArg where
  common : CommonCfg
  baud   : Nat
  flow   : FlowArg
  urxf   : Option Nat
  deriving DecidableEq, Repr

/-- A UART instance's configuration record (00_scope R9, 10_state R44). -/
structure UartCfg where
  common : CommonCfg
  baud   : Nat
  flow   : FlowMode
  urxf   : Nat
  deriving DecidableEq, Repr

/-- An SPI instance's configuration record (00_scope R9, 10_state R44), also the form SETUP receives. -/
structure SpiCfg where
  common : CommonCfg
  tTxav  : Nat
  tCsa   : Nat
  tCsd   : Nat
  tDone  : Nat
  deriving DecidableEq, Repr

/-- The `cfg` operand (30 R103): a record of one of the two variants. -/
inductive CfgArg where
  | uart (c : UartCfgArg)
  | spi (c : SpiCfg)
  deriving DecidableEq, Repr

/-- The operations (30 R101, opcode_table.json), in the table's order. -/
inductive Instr where
  | setup (c : CfgArg)
  | reset
  | readStatus
  | crc16 (s : List Byte)
  | encodeUart (h : Hdr) (p : List Byte)
  | encodeSpi (h : Hdr) (p : List Byte)
  | decByte (x : Byte)
  | decodeUart (s : List Byte)
  | decodeSpi (t : List Byte)
  | uartTrySend (f : List Byte)
  | uartPoll
  | uartTxByte
  | uartRxByte (x : Byte)
  | uartCtsSet (v : Bool)
  | spiTrySend (f : List Byte)
  | spiPoll
  | spiCsAssert
  | spiXfer (m : Byte)
  | spiCsDeassert
  deriving DecidableEq, Repr

end Sys2Proof
end

