-- ==== Sys2Proof/WellFormed.lean ====
section
/-! DEFINITION. Which terms of Instr are operations with operands as 30_encoding R103 forms them. Every operand type
holds exactly its legal values but FLOW: the two codes of the legal modes are spelled by the modes. -/

namespace Sys2Proof

/-- `other` holds a code that spells neither mode (log 9). -/
def FlowArg.wellFormed : FlowArg → Bool
  | .mode _ => true
  | .other code => code != 0 && code != 1

def CfgArg.wellFormed : CfgArg → Bool
  | .uart c => c.flow.wellFormed
  | .spi _ => true

def Instr.wellFormed : Instr → Bool
  | .setup c => c.wellFormed
  | .reset => true
  | .readStatus => true
  | .crc16 _ => true
  | .encodeUart _ _ => true
  | .encodeSpi _ _ => true
  | .decByte _ => true
  | .decodeUart _ => true
  | .decodeSpi _ => true
  | .uartTrySend _ => true
  | .uartPoll => true
  | .uartTxByte => true
  | .uartRxByte _ => true
  | .uartCtsSet _ => true
  | .spiTrySend _ => true
  | .spiPoll => true
  | .spiCsAssert => true
  | .spiXfer _ => true
  | .spiCsDeassert => true

end Sys2Proof
end

