-- ==== Sys2Proof/Decode.lean ====
section
/-! DEFINITION. From the bytes of a script to an operation and back: the code byte of 30_encoding R100 and R101, then
the operands in the order of R101, each typed value in the serialisation of log 2 (the spec gives operands as typed
values and no bits). -/

namespace Sys2Proof

/-- Why bytes spell no operation. -/
inductive DecodeError where
  /-- There is no byte left to read a code from. -/
  | endOfScript
  /-- One of the 237 reserved codes (30 R102). -/
  | reservedCode (code : Byte)
  /-- The bytes end inside an operand. -/
  | truncated
  /-- A byte that no operand value is serialised as (log 2). -/
  | badOperand
  deriving DecidableEq, Repr

/-! ## Operand readers -/

def takeByte : List Byte → Except DecodeError (Byte × List Byte)
  | [] => .error .truncated
  | b :: r => .ok (b, r)

/-- `level` (30 R103): 0 or 1. -/
def takeLevel : List Byte → Except DecodeError (Bool × List Byte)
  | [] => .error .truncated
  | b :: r => if b = 0 then .ok (false, r) else if b = 1 then .ok (true, r) else .error .badOperand

/-- `bytes` (30 R103), of any length: each byte stands after a marker 1, and a marker 0 ends the list (log 2). -/
def takeBytes : List Byte → Except DecodeError (List Byte × List Byte)
  | [] => .error .truncated
  | [m] => if m = 0 then .ok ([], []) else if m = 1 then .error .truncated else .error .badOperand
  | m :: b :: r =>
    if m = 0 then .ok ([], b :: r)
    else if m = 1 then
      match takeBytes r with
      | .ok (bs, r') => .ok (b :: bs, r')
      | .error e => .error e
    else .error .badOperand

/-- An integer from its base-256 digits, least significant first. -/
def natOfDigits : List Byte → Nat
  | [] => 0
  | d :: ds => d.toNat + 256 * natOfDigits ds

/-- The base-256 digits of `n`, least significant first, by fuel. -/
def digitsFuel : Nat → Nat → List Byte
  | 0, _ => []
  | k + 1, n => if n = 0 then [] else BitVec.ofNat 8 n :: digitsFuel k (n / 256)

def natDigits (n : Nat) : List Byte := digitsFuel n n

/-- An integer of a configuration record: its digits as `bytes`, the last of them not 0. -/
def takeNat (bs : List Byte) : Except DecodeError (Nat × List Byte) :=
  match takeBytes bs with
  | .ok (ds, r) => if ds.getLast? = some 0 then .error .badOperand else .ok (natOfDigits ds, r)
  | .error e => .error e

/-- An integer that may be omitted: 0 for omitted, 1 and then the integer. -/
def takeOptNat (bs : List Byte) : Except DecodeError (Option Nat × List Byte) :=
  match takeLevel bs with
  | .ok (false, r) => .ok (none, r)
  | .ok (true, r) =>
    match takeNat r with
    | .ok (n, r') => .ok (some n, r')
    | .error e => .error e
  | .error e => .error e

/-- FLOW: 0 for NONE, 1 for CTS_RTS, any other byte an illegal value (log 9). -/
def flowOfByte (b : Byte) : FlowArg :=
  if b = 0 then .mode .none else if b = 1 then .mode .ctsRts else .other b

def takeHdr (bs : List Byte) : Except DecodeError (Hdr × List Byte) := do
  let (ep, bs) ← takeByte bs
  let (ctrl, bs) ← takeByte bs
  let (seq, bs) ← takeByte bs
  let (ack, bs) ← takeByte bs
  return (⟨ep, ctrl, seq, ack⟩, bs)

def takeCommon (bs : List Byte) : Except DecodeError (CommonCfg × List Byte) := do
  let (rxq, bs) ← takeNat bs
  let (txq, bs) ← takeNat bs
  let (maxPayload, bs) ← takeNat bs
  let (epCount, bs) ← takeNat bs
  let (seqMod, bs) ← takeNat bs
  return (⟨rxq, txq, maxPayload, epCount, seqMod⟩, bs)

/-- `cfg` (30 R103): which variant's record (0 UART, 1 SPI), then its fields in the order of 00_scope R9. -/
def takeCfg (bs : List Byte) : Except DecodeError (CfgArg × List Byte) := do
  let (isSpi, bs) ← takeLevel bs
  let (common, bs) ← takeCommon bs
  if isSpi then
    let (tTxav, bs) ← takeNat bs
    let (tCsa, bs) ← takeNat bs
    let (tCsd, bs) ← takeNat bs
    let (tDone, bs) ← takeNat bs
    return (.spi ⟨common, tTxav, tCsa, tCsd, tDone⟩, bs)
  else
    let (baud, bs) ← takeNat bs
    let (flow, bs) ← takeByte bs
    let (urxf, bs) ← takeOptNat bs
    return (.uart ⟨common, baud, flowOfByte flow, urxf⟩, bs)

/-! ## The decoder -/

/-- The operands of the code `code` (30 R101), or the rejection of a reserved code (R102). -/
def takeOperands (code : Byte) (bs : List Byte) : Except DecodeError (Instr × List Byte) :=
  match code.toNat with
  | 0x01 => do let (c, bs) ← takeCfg bs; return (.setup c, bs)
  | 0x02 => .ok (.reset, bs)
  | 0x03 => .ok (.readStatus, bs)
  | 0x10 => do let (s, bs) ← takeBytes bs; return (.crc16 s, bs)
  | 0x11 => do let (h, bs) ← takeHdr bs; let (p, bs) ← takeBytes bs; return (.encodeUart h p, bs)
  | 0x12 => do let (h, bs) ← takeHdr bs; let (p, bs) ← takeBytes bs; return (.encodeSpi h p, bs)
  | 0x13 => do let (x, bs) ← takeByte bs; return (.decByte x, bs)
  | 0x14 => do let (s, bs) ← takeBytes bs; return (.decodeUart s, bs)
  | 0x15 => do let (t, bs) ← takeBytes bs; return (.decodeSpi t, bs)
  | 0x20 => do let (f, bs) ← takeBytes bs; return (.uartTrySend f, bs)
  | 0x21 => .ok (.uartPoll, bs)
  | 0x22 => .ok (.uartTxByte, bs)
  | 0x28 => do let (x, bs) ← takeByte bs; return (.uartRxByte x, bs)
  | 0x29 => do let (v, bs) ← takeLevel bs; return (.uartCtsSet v, bs)
  | 0x30 => do let (f, bs) ← takeBytes bs; return (.spiTrySend f, bs)
  | 0x31 => .ok (.spiPoll, bs)
  | 0x38 => .ok (.spiCsAssert, bs)
  | 0x39 => do let (m, bs) ← takeByte bs; return (.spiXfer m, bs)
  | 0x3A => .ok (.spiCsDeassert, bs)
  | _ => .error (.reservedCode code)

/-- Total on any bytes: exactly one byte of code, then its operands (30 R100). The rest of the bytes comes back. -/
def decode : List Byte → Except DecodeError (Instr × List Byte)
  | [] => .error .endOfScript
  | code :: bs => takeOperands code bs

/-! ## The encoder -/

/-- The operation code (30 R101). -/
def Instr.code : Instr → Byte
  | .setup _ => 0x01
  | .reset => 0x02
  | .readStatus => 0x03
  | .crc16 _ => 0x10
  | .encodeUart _ _ => 0x11
  | .encodeSpi _ _ => 0x12
  | .decByte _ => 0x13
  | .decodeUart _ => 0x14
  | .decodeSpi _ => 0x15
  | .uartTrySend _ => 0x20
  | .uartPoll => 0x21
  | .uartTxByte => 0x22
  | .uartRxByte _ => 0x28
  | .uartCtsSet _ => 0x29
  | .spiTrySend _ => 0x30
  | .spiPoll => 0x31
  | .spiCsAssert => 0x38
  | .spiXfer _ => 0x39
  | .spiCsDeassert => 0x3A

/-- The agent that issues the operation (30 R101, 00_scope R12). -/
def Instr.agent : Instr → Agent
  | .setup _ => .client
  | .reset => .client
  | .readStatus => .client
  | .crc16 _ => .client
  | .encodeUart _ _ => .client
  | .encodeSpi _ _ => .client
  | .decByte _ => .client
  | .decodeUart _ => .client
  | .decodeSpi _ => .client
  | .uartTrySend _ => .client
  | .uartPoll => .client
  | .uartTxByte => .txe
  | .uartRxByte _ => .peer
  | .uartCtsSet _ => .peer
  | .spiTrySend _ => .client
  | .spiPoll => .client
  | .spiCsAssert => .peer
  | .spiXfer _ => .peer
  | .spiCsDeassert => .peer

/-- The variant an operation exists on, or none where it exists on both (30 R101). -/
def Instr.variant? : Instr → Option Variant
  | .setup _ => none
  | .reset => none
  | .readStatus => none
  | .crc16 _ => none
  | .encodeUart _ _ => none
  | .encodeSpi _ _ => none
  | .decByte _ => none
  | .decodeUart _ => none
  | .decodeSpi _ => none
  | .uartTrySend _ => some .uart
  | .uartPoll => some .uart
  | .uartTxByte => some .uart
  | .uartRxByte _ => some .uart
  | .uartCtsSet _ => some .uart
  | .spiTrySend _ => some .spi
  | .spiPoll => some .spi
  | .spiCsAssert => some .spi
  | .spiXfer _ => some .spi
  | .spiCsDeassert => some .spi

def putLevel (v : Bool) : List Byte := [if v then 1 else 0]

def putBytes : List Byte → List Byte
  | [] => [0]
  | b :: bs => 1 :: b :: putBytes bs

def putNat (n : Nat) : List Byte := putBytes (natDigits n)

def putOptNat : Option Nat → List Byte
  | none => putLevel false
  | some n => putLevel true ++ putNat n

def flowByte : FlowArg → Byte
  | .mode .none => 0
  | .mode .ctsRts => 1
  | .other code => code

def putHdr (h : Hdr) : List Byte := [h.ep, h.ctrl, h.seq, h.ack]

def putCommon (c : CommonCfg) : List Byte :=
  putNat c.rxq ++ putNat c.txq ++ putNat c.maxPayload ++ putNat c.epCount ++ putNat c.seqMod

def putCfg : CfgArg → List Byte
  | .uart c => putLevel false ++ putCommon c.common ++ putNat c.baud ++ [flowByte c.flow] ++ putOptNat c.urxf
  | .spi c => putLevel true ++ putCommon c.common ++ putNat c.tTxav ++ putNat c.tCsa ++ putNat c.tCsd ++ putNat c.tDone

/-- The operands of an operation, in the order of 30 R101. -/
def putOperands : Instr → List Byte
  | .setup c => putCfg c
  | .reset => []
  | .readStatus => []
  | .crc16 s => putBytes s
  | .encodeUart h p => putHdr h ++ putBytes p
  | .encodeSpi h p => putHdr h ++ putBytes p
  | .decByte x => [x]
  | .decodeUart s => putBytes s
  | .decodeSpi t => putBytes t
  | .uartTrySend f => putBytes f
  | .uartPoll => []
  | .uartTxByte => []
  | .uartRxByte x => [x]
  | .uartCtsSet v => putLevel v
  | .spiTrySend f => putBytes f
  | .spiPoll => []
  | .spiCsAssert => []
  | .spiXfer m => [m]
  | .spiCsDeassert => []

/-- The bytes of an operation: its code, then its operands (30 R104). -/
def encode (i : Instr) : List Byte := i.code :: putOperands i

/-! ## The host's word of an opcode-table row -/

/-- The bytes of the word `w` of `nbits` bits, the first byte its bits 7..0, and then operand bytes of zero up to the
longest operation whose operands are all zeros (SETUP, 10 bytes). -/
def tableBytes (nbits w : Nat) : List Byte :=
  (List.range ((nbits + 7) / 8)).map (fun k => BitVec.ofNat 8 (w >>> (8 * k))) ++ List.replicate 9 0

def decodeTableWord (nbits w : Nat) : Option Instr :=
  match decode (tableBytes nbits w) with
  | .ok (i, _) => some i
  | .error _ => none

end Sys2Proof
end

