-- ==== Sys2Proof/Machine/State.lean ====
section
/-! DEFINITION. The state of the block (10_state R20 to R44), the results and reasons of its operations (60_exceptions
R291), the faults (R294) and the refusals, and the power-on state (70_reset_and_hazards R320). -/

namespace Sys2Proof.Machine

/-! ## Reasons and results (60 R291) -/

/-- `cfg_reason` (43 R261). -/
inductive CfgReason where
  | badRxq
  | badTxq
  | badMaxPayload
  | badEpCount
  | badSeqMod
  | badBaud
  | badFlow
  | badRxFifo
  | trigRange
  | trigDup
  deriving DecidableEq, Repr

/-- `hdr_reason` (40 R132). -/
inductive HdrReason where
  | overlength
  | badEp
  | badFlags
  | badSeq
  deriving DecidableEq, Repr

/-- `corrupt_reason` (40 R138, R140 to R144, R146). -/
inductive CorruptReason where
  | short
  | crcMismatch
  | badLength
  | overlength
  | badEp
  | badFlags
  | badSeq
  | badEscape
  | overflow
  deriving DecidableEq, Repr

/-- A decoded frame (40 R133): the header fields and the payload; its length is the payload's. -/
structure Frame where
  hdr     : Hdr
  payload : List Byte
  deriving DecidableEq, Repr

/-- What validation of a complete content says (40 R138). A corrupt frame carries its reason and nothing else (R133). -/
inductive Verdict where
  | frame (f : Frame)
  | corrupt (r : CorruptReason)
  deriving DecidableEq, Repr

/-- The result of DEC_BYTE. -/
inductive DecResult where
  | needMoreData
  | verdict (v : Verdict)
  deriving DecidableEq, Repr

/-- The result of DECODE_SPI. -/
inductive SpiDecResult where
  | empty
  | verdict (v : Verdict)
  deriving DecidableEq, Repr

/-! ## The block's state -/

/-- `mode` and `cfg` in one (10 R23, R24; log 5): the record is there exactly while the block is CONFIGURED. -/
inductive Mode (α : Type) where
  | unconfigured
  | configured (cfg : α)
  deriving DecidableEq, Repr

/-- The two values of `mode` by name (10 R23), as READ_STATUS reports them. -/
inductive ModeName where
  | unconfigured
  | configured
  deriving DecidableEq, Repr

/-- `dec_bad` (10 R39): why the current region is already known to be corrupt. -/
inductive DecBad where
  | none
  | badEscape
  | overflow
  deriving DecidableEq, Repr

/-- The stream decoder DEC (10 R39). -/
structure Dec where
  buf : List Byte
  esc : Bool
  bad : DecBad
  deriving DecidableEq, Repr

/-- The state only a UART instance has (10 R42). -/
structure UartState where
  mode   : Mode UartCfg
  /-- index in the head of `tx_queue` of the next byte to transmit (R26) -/
  txPos  : Nat
  /-- received bytes in arrival order (R27) -/
  rxFifo : List Byte
  /-- the level of the clear-to-send input, true = asserted (R35) -/
  ctsIn  : Bool
  /-- every byte driven onto the transmit line, in order (R41) -/
  wireTx : List Byte
  deriving DecidableEq, Repr

/-- The state only an SPI instance has (10 R42). -/
structure SpiState where
  mode           : Mode SpiCfg
  /-- received transactions, oldest first (R28) -/
  rxQueue        : List (List Byte)
  /-- MOSI bytes of the transaction in progress (R29) -/
  rxCur          : List Byte
  /-- a transaction is in progress (R30) -/
  xferActive     : Bool
  /-- the transaction drives the head of `tx_queue` on MISO (R31) -/
  txLoaded       : Bool
  /-- bytes clocked in the transaction (R32) -/
  xferPos        : Nat
  /-- T_DONE was emitted in the transaction (R33) -/
  doneSent       : Bool
  /-- the level of "I have data to send" (R34) -/
  txAvailOut     : Bool
  /-- the level of chip-select, true = asserted (R36) -/
  csIn           : Bool
  cntTxTruncated : Counter
  cntRxIdle      : Counter
  cntRxClipped   : Counter
  /-- every trigger id emitted, in order (R41) -/
  trigOut        : List Nat
  deriving DecidableEq, Repr

/-- The variant of the instance and the state that goes with it (00_scope R3): the other variant's state is absent,
not zero (10 R42). -/
inductive Adapter where
  | uart (u : UartState)
  | spi (p : SpiState)
  deriving DecidableEq, Repr

/-- The state of one block instance. -/
structure Block where
  /-- TRIG_NS, an instance parameter (00_scope R8): no operation changes it -/
  trigNs       : Nat
  adapter      : Adapter
  /-- frames accepted and not yet sent, oldest first (R25) -/
  txQueue      : List (List Byte)
  dec          : Dec
  /-- frames fully transmitted (R40) -/
  cntTxFrames  : Counter
  /-- bytes (UART) or transactions (SPI) lost (R40) -/
  cntRxOverrun : Counter
  deriving DecidableEq, Repr

/-! ## The status record (43 R264) -/

inductive StatusCfg where
  | none
  | uart (c : UartCfg)
  | spi (c : SpiCfg)
  deriving DecidableEq, Repr

structure UartStatus where
  txPos     : Nat
  rxFifoLen : Nat
  ctsIn     : Bool
  rtsOut    : Bool
  deriving DecidableEq, Repr

structure SpiStatus where
  csIn           : Bool
  xferActive     : Bool
  txLoaded       : Bool
  xferPos        : Nat
  doneSent       : Bool
  txAvailOut     : Bool
  rxQueueLen     : Nat
  rxCurLen       : Nat
  cntTxTruncated : Counter
  cntRxIdle      : Counter
  cntRxClipped   : Counter
  deriving DecidableEq, Repr

/-- The fields of one variant only; those of the other are absent (43 R264). -/
inductive AdapterStatus where
  | uart (s : UartStatus)
  | spi (s : SpiStatus)
  deriving DecidableEq, Repr

structure StatusRecord where
  mode         : ModeName
  variant      : Variant
  cfg          : StatusCfg
  txQueueLen   : Nat
  rxReady      : Bool
  decBufLen    : Nat
  decEsc       : Bool
  decBad       : DecBad
  cntTxFrames  : Counter
  cntRxOverrun : Counter
  adapter      : AdapterStatus
  deriving DecidableEq, Repr

/-- The results of the operations (60 R291), one closed enumeration for all of them. -/
inductive Result where
  /-- the operation returns nothing; also the value before the first operation (log 20) -/
  | noResult
  | cfgOk
  | cfgLocked
  | cfgInvalid (r : CfgReason)
  | status (r : StatusRecord)
  | crc (v : Half)
  /-- the bytes of an encode or of a poll -/
  | bytes (bs : List Byte)
  | encErr (r : HdrReason)
  | dec (r : DecResult)
  | decCursor (r : DecResult) (consumed : Nat)
  | spiDec (r : SpiDecResult)
  | sent
  | busy
  /-- NONE: a poll with nothing received -/
  | pollNone
  /-- the byte UART_TX_BYTE sent -/
  | byteSent (b : Byte)
  /-- UART_TX_BYTE while it is not enabled: TXE has no step and the line holds (41 R183; log 6) -/
  | held
  /-- the MISO byte the block drives -/
  | miso (b : Byte)
  /-- UNDRIVEN, with the byte the host samples, a free draw (42 R227; log 7) -/
  | undriven (sampled : Byte)
  deriving DecidableEq, Repr

/-! ## Faults and refusals -/

/-- The model faults of 60 R294, each with the number of the step that raised it (R293). A fault writes nothing. All
three are SAFE: the spec itself gives the misuse no meaning, so no claim can rest on one. -/
inductive Fault where
  /-- every 0x2x operation on an SPI instance, every 0x3x operation on a UART instance; safe -/
  | wrongVariant (step : Nat)
  /-- ENCODE_UART, ENCODE_SPI, DEC_BYTE, DECODE_UART, DECODE_SPI, UART_TRY_SEND, UART_POLL, SPI_TRY_SEND and SPI_POLL
  while UNCONFIGURED; safe -/
  | notConfigured (step : Nat)
  /-- UART_TRY_SEND and SPI_TRY_SEND with an empty or an oversize frame; safe -/
  | badFrameLen (step : Nat)
  deriving DecidableEq, Repr

/-- What has no step. All are SAFE: the model stops and claims nothing. -/
inductive Refusal where
  /-- an instruction without a meaning; raised by no arm of this model; safe -/
  | notModelled (mnemonic : String)
  /-- step: the script's bytes spell no operation, or there are none left (30 R102, 70 R335; log 1, log 2); safe -/
  | undecodable (e : DecodeError)
  /-- SETUP while UNCONFIGURED: the record is one of the other variant, which 30 R103 does not make an operand of this
  instance (log 8); safe -/
  | recordOfOtherVariant
  deriving DecidableEq, Repr

/-! ## The machine's state -/

/-- The block and the run it stands in: the script of operations still to come and what the run records. Everything
outside `block` is the model's own (log 1, 3, 6, 20). -/
structure State where
  block     : Block
  /-- the operations still to come, as bytes (log 1) -/
  script    : List Byte
  /-- the last operation's result (60 R291; log 3) -/
  result    : Result
  /-- the position of 10 R21: how many operations have run -/
  stepIndex : Nat
  /-- a UART_TX_BYTE line holds: it was not enabled, and nothing has enabled it since (41 R183, 70 R335; log 6) -/
  lineHeld  : Bool
  deriving DecidableEq, Repr

/-! ## Power-on (70 R320) -/

def Dec.init : Dec := { buf := [], esc := false, bad := .none }

def UartState.powerOn : UartState :=
  { mode := .unconfigured, txPos := 0, rxFifo := [], ctsIn := false, wireTx := [] }

def SpiState.powerOn : SpiState :=
  { mode := .unconfigured, rxQueue := [], rxCur := [], xferActive := false, txLoaded := false, xferPos := 0
    doneSent := false, txAvailOut := false, csIn := false, cntTxTruncated := 0, cntRxIdle := 0, cntRxClipped := 0
    trigOut := [] }

def Adapter.powerOn : Variant → Adapter
  | .uart => .uart UartState.powerOn
  | .spi => .spi SpiState.powerOn

/-- The instance of variant `v` with a trigger namespace of `trigNs` ids, at power-on. -/
def Block.powerOn (v : Variant) (trigNs : Nat) : Block :=
  { trigNs, adapter := Adapter.powerOn v, txQueue := [], dec := Dec.init, cntTxFrames := 0, cntRxOverrun := 0 }

/-- The machine of that instance at power-on, with no operation waiting. -/
def State.powerOn (v : Variant) (trigNs : Nat) : State :=
  { block := Block.powerOn v trigNs, script := [], result := .noResult, stepIndex := 0, lineHeld := false }

/-- The machine right after reset. The spec leaves the two instance parameters OPEN (00_scope R3, R8); this one machine
is a UART instance with 16 trigger ids, the spec's example size (DESIGN CHOICE, log 4). -/
def State.reset : State := State.powerOn .uart 16

end Sys2Proof.Machine
end

