-- ==== Sys2Proof/Machine/Operands.lean ====
section
/-! DEFINITION. The constants of 00_scope R10, the byte-order helpers, and every form a frame takes: header, content
and trailer (30_encoding R90 to R94), the UART stuffing (R95, R96), the SPI form (R98), the CRC (40_codec R130), the
header check (R132) and the validation of a content (R138). -/

namespace Sys2Proof.Machine

/-! ## Constants (00_scope R10) -/

def hdrLen : Nat := 6
def crcLen : Nat := 2
def frameMin : Nat := hdrLen + crcLen
def flagByte : Byte := 0x7E
def escByte : Byte := 0x7D
def escXor : Byte := 0x20
def fillByte : Byte := 0x00
def crcPoly : Half := 0x1021
def crcInit : Half := 0xFFFF

/-- FRAME_MAX for the largest payload `maxPayload`. -/
def frameMaxOf (maxPayload : Nat) : Nat := frameMin + maxPayload

/-- UART_ENC_MAX for the largest payload `maxPayload`. -/
def uartEncMaxOf (maxPayload : Nat) : Nat := 2 * frameMaxOf maxPayload + 1

/-! ## Byte order (30 R94, 20 R72) -/

def lo8 (v : Half) : Byte := v.setWidth 8
def hi8 (v : Half) : Byte := (v >>> 8).setWidth 8
def u16le (a b : Byte) : Nat := a.toNat + 256 * b.toNat

/-- The two bytes of a 16-bit field, low byte first. -/
def le16 (v : Half) : List Byte := [lo8 v, hi8 v]

/-! ## The CRC (40 R130) -/

/-- One of the 8 shifts of a byte, most significant bit first. -/
def crcShift (c : Half) : Half := if c.msb then (c <<< 1) ^^^ crcPoly else c <<< 1

def crcShifts : Nat → Half → Half
  | 0, c => c
  | k + 1, c => crcShifts k (crcShift c)

def crcByte (c : Half) (b : Byte) : Half := crcShifts 8 (c ^^^ (b.setWidth 16 <<< 8))

/-- The CRC register after the bytes of `s`, from the register `c`. -/
def crcFrom (c : Half) (s : List Byte) : Half := s.foldl crcByte c

def crc16 (s : List Byte) : Half := crcFrom crcInit s

/-! ## Frame content (30 R91, R93) -/

/-- `hdr(h, L)`. -/
def hdrBytes (h : Hdr) (len : Nat) : List Byte := [h.ep, h.ctrl, h.seq, h.ack] ++ le16 (BitVec.ofNat 16 len)

def trailer (body : List Byte) : List Byte := le16 (crc16 body)

/-- `content(h, p)`: header, payload and the trailer over both. -/
def content (h : Hdr) (p : List Byte) : List Byte :=
  let body := hdrBytes h p.length ++ p
  body ++ trailer body

/-- Byte-stuffing, each content byte on its own (30 R95). -/
def stuff : List Byte → List Byte
  | [] => []
  | b :: s => if b = flagByte ∨ b = escByte then escByte :: (b ^^^ escXor) :: stuff s else b :: stuff s

/-- `uart_frame(h, p)` (30 R96): the delimiter is trailing only. -/
def uartFrame (h : Hdr) (p : List Byte) : List Byte := stuff (content h p) ++ [flagByte]

/-- `spi_frame(h, p)` (30 R98). -/
def spiFrame (h : Hdr) (p : List Byte) : List Byte := content h p

/-- Every byte is FILL, the empty list included: an idle transaction (42 R230), EMPTY to DECODE_SPI (40 R146). -/
def allFill (s : List Byte) : Bool := s.all (· == fillByte)

/-! ## Checks (40 R132, R138) -/

/-- `ctrl[7:5]` (30 R92). -/
def ctrlReserved (ctrl : Byte) : BitVec 3 := ctrl.extractLsb' 5 3

/-- `hdr_check`: the first reason that applies, or none for OK. -/
def hdrCheck (c : CommonCfg) (h : Hdr) (len : Nat) : Option HdrReason :=
  if c.maxPayload < len then some .overlength
  else if c.epCount ≤ h.ep.toNat then some .badEp
  else if ctrlReserved h.ctrl ≠ 0 then some .badFlags
  else if c.seqMod ≤ h.seq.toNat ∨ c.seqMod ≤ h.ack.toNat then some .badSeq
  else none

/-- A header reason as the reason of a corrupt frame (60 R291: the names are the same). -/
def corruptOfHdr : HdrReason → CorruptReason
  | .overlength => .overlength
  | .badEp => .badEp
  | .badFlags => .badFlags
  | .badSeq => .badSeq

/-- Element `i` of a byte sequence. The rules index only inside the sequence. -/
def byteAt (s : List Byte) (i : Nat) : Byte := s.getD i 0

/-- The header fields of a content. -/
def hdrOf (b : List Byte) : Hdr := ⟨byteAt b 0, byteAt b 1, byteAt b 2, byteAt b 3⟩

/-- `validate(b)` (40 R138): the trailer before any header field is trusted. -/
def validate (c : CommonCfg) (b : List Byte) : Verdict :=
  let n := b.length
  if n < frameMin then .corrupt .short
  else if (crc16 (b.take (n - 2))).toNat ≠ u16le (byteAt b (n - 2)) (byteAt b (n - 1)) then .corrupt .crcMismatch
  else
    let len := u16le (byteAt b 4) (byteAt b 5)
    if len ≠ n - frameMin then .corrupt .badLength
    else
      match hdrCheck c (hdrOf b) len with
      | some r => .corrupt (corruptOfHdr r)
      | none => .frame ⟨hdrOf b, (b.drop hdrLen).take len⟩

/-- DECODE_SPI's function (40 R146). -/
def decodeTransaction (c : CommonCfg) (t : List Byte) : SpiDecResult :=
  if allFill t then .empty
  else if t.length < frameMin then .verdict (.corrupt .short)
  else
    let len := u16le (byteAt t 4) (byteAt t 5)
    if c.maxPayload < len then .verdict (.corrupt .overlength)
    else if t.length < frameMin + len then .verdict (.corrupt .short)
    else .verdict (validate c (t.take (frameMin + len)))

/-! ## The stream decoder (40 R139 to R145) -/

/-- The reason a mark of the region is reported with (40 R140). -/
def markReason : DecBad → Option CorruptReason
  | .none => none
  | .badEscape => some .badEscape
  | .overflow => some .overflow

/-- `append_data(d)` (40 R144). -/
def appendData (c : CommonCfg) (d : Dec) (x : Byte) : Dec :=
  if d.buf.length = frameMaxOf c.maxPayload then { d with bad := .overflow, buf := [] }
  else { d with buf := d.buf ++ [x] }

/-- The region's result at its FLAG (40 R140): an escape left open marks it, unless it is marked already. -/
def regionResult (c : CommonCfg) (d : Dec) : DecResult :=
  let bad := if d.esc ∧ d.bad = .none then .badEscape else d.bad
  match markReason bad with
  | some r => .verdict (.corrupt r)
  | none => if d.buf = [] then .needMoreData else .verdict (validate c d.buf)

/-- DEC_BYTE's function: the five cases of 40 R140 to R144. -/
def decStep (c : CommonCfg) (d : Dec) (x : Byte) : Dec × DecResult :=
  if x = flagByte then (Dec.init, regionResult c d)
  else if d.bad ≠ .none then (d, .needMoreData)
  else if d.esc then
    if x = 0x5E ∨ x = 0x5D then (appendData c { d with esc := false } (x ^^^ escXor), .needMoreData)
    else ({ d with esc := false, bad := .badEscape }, .needMoreData)
  else if x = escByte then ({ d with esc := true }, .needMoreData)
  else (appendData c d x, .needMoreData)

/-- DECODE_UART's loop (40 R145): bytes until the first result, and how many were consumed. -/
def decodeStream (c : CommonCfg) : Dec → List Byte → Dec × DecResult × Nat
  | d, [] => (d, .needMoreData, 0)
  | d, x :: s =>
    match decStep c d x with
    | (d', .needMoreData) =>
      let (d'', r, k) := decodeStream c d' s
      (d'', r, k + 1)
    | (d', .verdict v) => (d', .verdict v, 1)

end Sys2Proof.Machine
end

