-- ==== Sys2Proof/Machine/Flags.lean ====
section
/-! DEFINITION. The block has no condition flags (10_state R22). Its status signals, derived from the state and not
stored: rts_out (10 R37), rx_ready (R38), tx_enabled (41 R183), the level of tx_avail_out (42 R222). -/

namespace Sys2Proof.Machine

/-- The variant of the instance (00_scope R3). -/
def Block.variant (b : Block) : Variant :=
  match b.adapter with
  | .uart _ => .uart
  | .spi _ => .spi

/-- `S.cfg`: the record, or none while UNCONFIGURED (10 R24). -/
def Mode.cfg? {α : Type} : Mode α → Option α
  | .unconfigured => none
  | .configured c => some c

/-- The common configuration fields, while the block is CONFIGURED. -/
def Block.common? (b : Block) : Option CommonCfg :=
  match b.adapter with
  | .uart u => u.mode.cfg?.map (·.common)
  | .spi p => p.mode.cfg?.map (·.common)

/-- `S.mode` (10 R23). -/
def Block.modeName (b : Block) : ModeName := if b.common?.isSome then .configured else .unconfigured

/-- `rts_out` (10 R37). -/
def rtsOut (u : UartState) : Bool :=
  match u.mode with
  | .unconfigured => false
  | .configured c =>
    match c.flow with
    | .none => true
    | .ctsRts => u.rxFifo.length < c.urxf

/-- `rx_ready` (10 R38). -/
def Block.rxReady (b : Block) : Bool :=
  match b.adapter with
  | .uart u => 0 < u.rxFifo.length
  | .spi p => 0 < p.rxQueue.length

/-- `tx_enabled` (41 R183): UART_TX_BYTE has a step. -/
def txEnabled (txQueue : List (List Byte)) (u : UartState) : Bool :=
  match u.mode with
  | .unconfigured => false
  | .configured c => !txQueue.isEmpty && (c.flow == .none || u.ctsIn)

/-- UART_TX_BYTE has a step on this block (41 R183). An SPI instance has no TXE, so no step of it is enabled there (the
model's choice where only UART_TX_DRAIN asks, log 21). -/
def Block.txEnabled (b : Block) : Bool :=
  match b.adapter with
  | .uart u => Machine.txEnabled b.txQueue u
  | .spi _ => false

/-- UART_TX_BYTE has a step in `s` (41 R183). -/
def State.txEnabled (s : State) : Bool := s.block.txEnabled

/-- The level of "I have data to send" while CONFIGURED (42 R222). -/
def availLevel (txQueue : List (List Byte)) (p : SpiState) : Bool := !txQueue.isEmpty && !p.csIn

end Sys2Proof.Machine
end

