-- ==== Sys2Proof/Machine/Ops.lean ====
section
/-! DEFINITION. The named operations the meanings share: the queue operations and emissions of 00_scope's notation, the
guards whose failure is a fault (60_exceptions R294), and the end of an operation. The block takes no exceptions (60
R290): an error is a result, a counter or a fault, so there is no exception entry and no return from one. -/

namespace Sys2Proof.Machine

/-- The outcome of a step of this machine. -/
abbrev Out := Host.Outcome State Fault Refusal

/-! ## Queues, traces and counters (00_scope notation, 10 R40) -/

def enq {α : Type} (q : List α) (x : α) : List α := q ++ [x]
def deq {α : Type} (q : List α) : List α := q.tail

/-- `head(S.tx_queue)`. The rules read it only of a queue that is not empty (log 11). -/
def headFrame (q : List (List Byte)) : List Byte := q.headD []

/-- A counter's increment, modulo 2^32. -/
def bump (c : Counter) : Counter := c + 1

/-- `emit_wire(b)`. -/
def emitWire (u : UartState) (b : Byte) : UartState := { u with wireTx := u.wireTx ++ [b] }

/-- `emit_trig(t)`. -/
def emitTrig (p : SpiState) (t : Nat) : SpiState := { p with trigOut := p.trigOut ++ [t] }

/-- The triggers `upd_avail()` emits: T_TXAV at a rising edge, and none else (42 R222). -/
def availTriggers (c : SpiCfg) (txQueue : List (List Byte)) (p : SpiState) : List Nat :=
  if availLevel txQueue p && !p.txAvailOut then [c.tTxav] else []

/-- `upd_avail()` while the block is CONFIGURED with `c` (42 R222): a trigger at a rising edge, and the new level. -/
def updAvail (c : SpiCfg) (txQueue : List (List Byte)) (p : SpiState) : SpiState :=
  { p with trigOut := p.trigOut ++ availTriggers c txQueue p, txAvailOut := availLevel txQueue p }

/-! ## The end of an operation -/

def Block.setUart (b : Block) (u : UartState) : Block := { b with adapter := .uart u }
def Block.setSpi (b : Block) (p : SpiState) : Block := { b with adapter := .spi p }
def Block.setTxQueue (b : Block) (q : List (List Byte)) : Block := { b with txQueue := q }
def Block.setDec (b : Block) (d : Dec) : Block := { b with dec := d }

/-- The operation is complete: the block is `b`, its result `r`, and the step is counted (10 R21). -/
def State.finish (s : State) (b : Block) (r : Result) : State :=
  { s with block := b, result := r, stepIndex := s.stepIndex + 1 }

def State.setHeld (s : State) (v : Bool) : State := { s with lineHeld := v }

/-- A line that holds does so until UART_TX_BYTE is enabled (41 R183): the end of the two operations that can enable it,
UART_TRY_SEND and UART_CTS_SET (log 6). -/
def State.releaseLine (s : State) : State := s.setHeld (s.lineHeld && !s.txEnabled)

/-- `return r` of an operation that leaves the block as `b`. -/
def done (s : State) (b : Block) (r : Result) : Out := .next (s.finish b r)

/-! ## Guards (60 R294, in the precedence of R298) -/

/-- The operations of 41_uart_adapter exist only on a UART instance (R180). -/
def needUart (s : State) (k : UartState → Out) : Out :=
  match s.block.adapter with
  | .uart u => k u
  | .spi _ => .fault (.wrongVariant s.stepIndex)

/-- The operations of 42_spi_adapter exist only on an SPI instance (R220). -/
def needSpi (s : State) (k : SpiState → Out) : Out :=
  match s.block.adapter with
  | .spi p => k p
  | .uart _ => .fault (.wrongVariant s.stepIndex)

/-- A CLIENT data operation needs its variant's configuration. -/
def needCfg {α : Type} (s : State) (m : Mode α) (k : α → Out) : Out :=
  match m with
  | .configured c => k c
  | .unconfigured => .fault (.notConfigured s.stepIndex)

/-- A codec operation needs the common configuration fields, on either variant (40 R134). -/
def needCommon (s : State) (k : CommonCfg → Out) : Out :=
  match s.block.common? with
  | some c => k c
  | none => .fault (.notConfigured s.stepIndex)

/-- A frame handed to the adapter has 1 to `max` bytes. -/
def needFrameLen (s : State) (f : List Byte) (max : Nat) (k : Out) : Out :=
  if f.length = 0 ∨ max < f.length then .fault (.badFrameLen s.stepIndex) else k

end Sys2Proof.Machine
end

