-- ==== Sys2Proof/Machine/Codec.lean ====
section
/-! DEFINITION. The codec family, codes 0x1x: CRC16, ENCODE_UART, ENCODE_SPI, DEC_BYTE, DECODE_UART, DECODE_SPI
(40_codec R131 to R146). -/

namespace Sys2Proof.Machine

/-- CRC16 (40 R131): any mode, no state written. -/
def execCrc16 (data : List Byte) (s : State) : Out := done s s.block (.crc (crc16 data))

/-- An encode (40 R135, R136): the header check, then the bytes of `form`. No state is written. -/
def encodeWith (form : Hdr → List Byte → List Byte) (h : Hdr) (p : List Byte) (s : State) : Out :=
  needCommon s fun c =>
    match hdrCheck c h p.length with
    | some r => done s s.block (.encErr r)
    | none => done s s.block (.bytes (form h p))

/-- ENCODE_UART (40 R135). -/
def execEncodeUart (h : Hdr) (p : List Byte) (s : State) : Out := encodeWith uartFrame h p s

/-- ENCODE_SPI (40 R136). -/
def execEncodeSpi (h : Hdr) (p : List Byte) (s : State) : Out := encodeWith spiFrame h p s

/-- DEC_BYTE (40 R140 to R144): writes DEC. -/
def execDecByte (x : Byte) (s : State) : Out :=
  needCommon s fun c =>
    let (d, r) := decStep c s.block.dec x
    done s (s.block.setDec d) (.dec r)

/-- DECODE_UART (40 R145): writes DEC, in one step. -/
def execDecodeUart (data : List Byte) (s : State) : Out :=
  needCommon s fun c =>
    let (d, r, k) := decodeStream c s.block.dec data
    done s (s.block.setDec d) (.decCursor r k)

/-- DECODE_SPI (40 R146): no state written. -/
def execDecodeSpi (t : List Byte) (s : State) : Out :=
  needCommon s fun c => done s s.block (.spiDec (decodeTransaction c t))

end Sys2Proof.Machine
end

