-- ==== Sys2Proof/Machine/Control.lean ====
section
/-! DEFINITION. The control family, codes 0x0x: SETUP, RESET, READ_STATUS (43_setup_and_status R260 to R264). -/

namespace Sys2Proof.Machine

/-! ## Checking a configuration (43 R261) -/

/-- Rows 1 to 5 of `cfg_check`: the first reason that applies. -/
def checkCommon (c : CommonCfg) : Option CfgReason :=
  if c.rxq < 1 then some .badRxq
  else if c.txq < 1 then some .badTxq
  else if 65535 < c.maxPayload then some .badMaxPayload
  else if c.epCount < 1 ∨ 256 < c.epCount then some .badEpCount
  else if c.seqMod < 2 ∨ 256 < c.seqMod then some .badSeqMod
  else none

/-- URXF, or its default where it is omitted (43 R260). -/
def urxfOf (c : UartCfgArg) : Nat :=
  match c.urxf with
  | some n => n
  | none => c.common.rxq * uartEncMaxOf c.common.maxPayload

/-- `cfg_check` of a UART record, and the record it becomes. -/
def checkUart (c : UartCfgArg) : Except CfgReason UartCfg :=
  match checkCommon c.common with
  | some r => .error r
  | none =>
    if c.baud < 1 then .error .badBaud
    else
      match c.flow with
      | .other _ => .error .badFlow
      | .mode m =>
        if urxfOf c < 1 then .error .badRxFifo
        else .ok { common := c.common, baud := c.baud, flow := m, urxf := urxfOf c }

def trigIds (c : SpiCfg) : List Nat := [c.tTxav, c.tCsa, c.tCsd, c.tDone]

/-- `cfg_check` of an SPI record on an instance with `trigNs` trigger ids. -/
def checkSpi (trigNs : Nat) (c : SpiCfg) : Except CfgReason SpiCfg :=
  match checkCommon c.common with
  | some r => .error r
  | none =>
    if (trigIds c).any (fun t => trigNs ≤ t) then .error .trigRange
    else if (trigIds c).Nodup then .ok c
    else .error .trigDup

/-! ## The state SETUP and RESET leave (43 R262, R263, 70 R322) -/

/-- The elements both variants have, at their power-on values. -/
def Block.cleared (b : Block) (a : Adapter) : Block :=
  { b with adapter := a, txQueue := [], dec := Dec.init, cntTxFrames := 0, cntRxOverrun := 0 }

/-- A UART instance's state with mode `m`: `cts_in` and `wire_tx` are unchanged. -/
def UartState.cleared (u : UartState) (m : Mode UartCfg) : UartState :=
  { UartState.powerOn with mode := m, ctsIn := u.ctsIn, wireTx := u.wireTx }

/-- An SPI instance's state with mode `m`: `cs_in` and `trig_out` are unchanged, and `tx_avail_out` falls with no
trigger. -/
def SpiState.cleared (p : SpiState) (m : Mode SpiCfg) : SpiState :=
  { SpiState.powerOn with mode := m, csIn := p.csIn, trigOut := p.trigOut }

/-! ## SETUP (43 R260) -/

/-- SETUP on a UART instance. A record of the other variant is no operand of this instance (30 R103; log 8). -/
def setupUart (s : State) (u : UartState) (c : CfgArg) : Out :=
  match u.mode with
  | .configured _ => done s s.block .cfgLocked
  | .unconfigured =>
    match c with
    | .spi _ => .refused .recordOfOtherVariant
    | .uart a =>
      match checkUart a with
      | .error r => done s s.block (.cfgInvalid r)
      | .ok c => done s (s.block.cleared (.uart (u.cleared (.configured c)))) .cfgOk

/-- SETUP on an SPI instance. -/
def setupSpi (s : State) (p : SpiState) (c : CfgArg) : Out :=
  match p.mode with
  | .configured _ => done s s.block .cfgLocked
  | .unconfigured =>
    match c with
    | .uart _ => .refused .recordOfOtherVariant
    | .spi a =>
      match checkSpi s.block.trigNs a with
      | .error r => done s s.block (.cfgInvalid r)
      | .ok c => done s (s.block.cleared (.spi (p.cleared (.configured c)))) .cfgOk

def execSetup (c : CfgArg) (s : State) : Out :=
  match s.block.adapter with
  | .uart u => setupUart s u c
  | .spi p => setupSpi s p c

/-! ## RESET (43 R263) -/

def Adapter.cleared : Adapter → Adapter
  | .uart u => .uart (u.cleared .unconfigured)
  | .spi p => .spi (p.cleared .unconfigured)

def execReset (s : State) : Out := done s (s.block.cleared s.block.adapter.cleared) .noResult

/-! ## READ_STATUS (43 R264) -/

/-- A copy of `cfg`, or none. -/
def statusCfg (a : Adapter) : StatusCfg :=
  match a with
  | .uart u => match u.mode with
    | .configured c => .uart c
    | .unconfigured => .none
  | .spi p => match p.mode with
    | .configured c => .spi c
    | .unconfigured => .none

/-- The fields of the instance's own variant. -/
def adapterStatus (a : Adapter) : AdapterStatus :=
  match a with
  | .uart u => .uart { txPos := u.txPos, rxFifoLen := u.rxFifo.length, ctsIn := u.ctsIn, rtsOut := rtsOut u }
  | .spi p =>
    .spi { csIn := p.csIn, xferActive := p.xferActive, txLoaded := p.txLoaded, xferPos := p.xferPos
           doneSent := p.doneSent, txAvailOut := p.txAvailOut, rxQueueLen := p.rxQueue.length
           rxCurLen := p.rxCur.length, cntTxTruncated := p.cntTxTruncated, cntRxIdle := p.cntRxIdle
           cntRxClipped := p.cntRxClipped }

def statusOf (b : Block) : StatusRecord :=
  { mode := b.modeName, variant := b.variant, cfg := statusCfg b.adapter, txQueueLen := b.txQueue.length
    rxReady := b.rxReady, decBufLen := b.dec.buf.length, decEsc := b.dec.esc, decBad := b.dec.bad
    cntTxFrames := b.cntTxFrames, cntRxOverrun := b.cntRxOverrun, adapter := adapterStatus b.adapter }

def execReadStatus (s : State) : Out := done s s.block (.status (statusOf s.block))

end Sys2Proof.Machine
end

