-- ==== Sys2Proof/Machine/Spi.lean ====
section
/-! DEFINITION. The SPI secondary adapter family, codes 0x3x (42_spi_adapter R220 to R234). -/

namespace Sys2Proof.Machine

/-- SPI_TRY_SEND (42 R221). -/
def execSpiTrySend (f : List Byte) (s : State) : Out :=
  needSpi s fun p =>
    needCfg s p.mode fun c =>
      needFrameLen s f (frameMaxOf c.common.maxPayload)
        (if s.block.txQueue.length = c.common.txq then done s s.block .busy
         else
           let q := enq s.block.txQueue f
           done s ((s.block.setTxQueue q).setSpi (updAvail c q p)) .sent)

/-- SPI_POLL (42 R223): the oldest transaction. -/
def execSpiPoll (s : State) : Out :=
  needSpi s fun p =>
    needCfg s p.mode fun _ =>
      match p.rxQueue with
      | [] => done s s.block .pollNone
      | t :: q => done s (s.block.setSpi { p with rxQueue := q }) (.bytes t)

/-- The start of a transaction (42 R224). -/
def startTransaction (c : SpiCfg) (txQueue : List (List Byte)) (p : SpiState) : SpiState :=
  let p1 := { p with csIn := true, xferActive := true, xferPos := 0, rxCur := [], doneSent := false
                     txLoaded := !txQueue.isEmpty }
  updAvail c txQueue (emitTrig p1 c.tCsa)

/-- SPI_CS_ASSERT (42 R224, R225). -/
def execSpiCsAssert (s : State) : Out :=
  needSpi s fun p =>
    if p.csIn then done s s.block .noResult
    else
      match p.mode with
      | .unconfigured => done s (s.block.setSpi { p with csIn := true }) .noResult
      | .configured c => done s (s.block.setSpi (startTransaction c s.block.txQueue p)) .noResult

/-- The MISO byte of a transaction (42 R226): the loaded frame's, else FILL. -/
def misoByte (txQueue : List (List Byte)) (p : SpiState) : Byte :=
  if p.txLoaded ∧ p.xferPos < (headFrame txQueue).length then byteAt (headFrame txQueue) p.xferPos else fillByte

/-- The MOSI byte of a transaction (42 R226): stored, or counted as clipped once FRAME_MAX bytes are stored. -/
def storeMosi (frameMax : Nat) (m : Byte) (p : SpiState) : SpiState :=
  if p.rxCur.length < frameMax then { p with rxCur := enq p.rxCur m }
  else { p with cntRxClipped := bump p.cntRxClipped }

/-- T_DONE at the byte that completes the loaded frame (42 R226, R228). -/
def signalDone (c : SpiCfg) (txQueue : List (List Byte)) (p : SpiState) : SpiState :=
  if p.txLoaded ∧ !p.doneSent ∧ p.xferPos = (headFrame txQueue).length then
    { emitTrig p c.tDone with doneSent := true }
  else p

/-- One byte exchanged in a transaction (42 R226). -/
def exchangeByte (c : SpiCfg) (txQueue : List (List Byte)) (m : Byte) (p : SpiState) : SpiState :=
  let p1 := storeMosi (frameMaxOf c.common.maxPayload) m p
  signalDone c txQueue { p1 with xferPos := p.xferPos + 1 }

/-- SPI_XFER (42 R226, R227). Outside a transaction the block does not take part: no state of the block changes and the
byte the host samples is a free draw (log 7). -/
def execSpiXfer (m : Byte) (s : State) : Out :=
  needSpi s fun p =>
    match p.xferActive, p.mode with
    | true, .configured c =>
      done s (s.block.setSpi (exchangeByte c s.block.txQueue m p)) (.miso (misoByte s.block.txQueue p))
    | _, _ => done s s.block (.undriven (Config.undrivenMiso s.stepIndex))

/-- The transmit side of the end of a transaction (42 R229): a frame clocked in full is retired, else it stays. -/
def retireFrame (b : Block) (p : SpiState) : Block × SpiState :=
  if p.txLoaded then
    if (headFrame b.txQueue).length ≤ p.xferPos then
      ({ b with txQueue := deq b.txQueue, cntTxFrames := bump b.cntTxFrames }, p)
    else (b, { p with cntTxTruncated := bump p.cntTxTruncated })
  else (b, p)

/-- The receive side (42 R229, R230): idle, lost, or queued. -/
def commitReceived (rxq : Nat) (b : Block) (p : SpiState) : Block × SpiState :=
  if allFill p.rxCur then (b, { p with cntRxIdle := bump p.cntRxIdle })
  else if p.rxQueue.length = rxq then ({ b with cntRxOverrun := bump b.cntRxOverrun }, p)
  else (b, { p with rxQueue := enq p.rxQueue p.rxCur })

/-- The end of a transaction (42 R229): T_CSD first, and T_TXAV last if the level rises. -/
def endTransaction (c : SpiCfg) (b : Block) (p : SpiState) : Block :=
  let p1 := emitTrig { p with csIn := false } c.tCsd
  let (b2, p2) := retireFrame b p1
  let (b3, p3) := commitReceived c.common.rxq b2 p2
  let p4 := { p3 with xferActive := false, txLoaded := false, xferPos := 0, rxCur := [], doneSent := false }
  b3.setSpi (updAvail c b3.txQueue p4)

/-- SPI_CS_DEASSERT (42 R229, R231). -/
def execSpiCsDeassert (s : State) : Out :=
  needSpi s fun p =>
    if !p.csIn then done s s.block .noResult
    else
      match p.xferActive, p.mode with
      | true, .configured c => done s (endTransaction c s.block p) .noResult
      | false, .configured c => done s (s.block.setSpi (updAvail c s.block.txQueue { p with csIn := false })) .noResult
      | _, .unconfigured => done s (s.block.setSpi { p with csIn := false }) .noResult

end Sys2Proof.Machine
end

