-- ==== Sys2Proof/Machine/Uart.lean ====
section
/-! DEFINITION. The UART adapter family, codes 0x2x (41_uart_adapter R180 to R191). -/

namespace Sys2Proof.Machine

/-- UART_TRY_SEND (41 R181). An accepted frame may enable a UART_TX_BYTE line that holds (R183). -/
def execUartTrySend (f : List Byte) (s : State) : Out :=
  needUart s fun u =>
    needCfg s u.mode fun c =>
      needFrameLen s f (uartEncMaxOf c.common.maxPayload)
        (if s.block.txQueue.length = c.common.txq then done s s.block .busy
         else .next (s.finish (s.block.setTxQueue (enq s.block.txQueue f)) .sent).releaseLine)

/-- UART_POLL (41 R182): all buffered bytes at once. -/
def execUartPoll (s : State) : Out :=
  needUart s fun u =>
    needCfg s u.mode fun _ =>
      if u.rxFifo = [] then done s s.block .pollNone
      else done s (s.block.setUart { u with rxFifo := [] }) (.bytes u.rxFifo)

/-- One byte of the head frame onto the wire (41 R184); at its last byte the frame is retired and counted. -/
def sendByte (b : Block) (u : UartState) : Block × Byte :=
  let h := headFrame b.txQueue
  let x := byteAt h u.txPos
  let u' := emitWire u x
  if u.txPos + 1 = h.length then
    ({ b with adapter := .uart { u' with txPos := 0 }, txQueue := deq b.txQueue, cntTxFrames := bump b.cntTxFrames }, x)
  else (b.setUart { u' with txPos := u.txPos + 1 }, x)

/-- UART_TX_BYTE (41 R183, R184). Not enabled, TXE has no step: the block is unchanged and the line holds (log 6). -/
def execUartTxByte (s : State) : Out :=
  needUart s fun u =>
    if txEnabled s.block.txQueue u then
      let (b, x) := sendByte s.block u
      .next ((s.finish b (.byteSent x)).setHeld false)
    else .next ((s.finish s.block .held).setHeld true)

/-- UART_RX_BYTE (41 R185): lost while UNCONFIGURED, lost and counted while the FIFO is full. -/
def execUartRxByte (x : Byte) (s : State) : Out :=
  needUart s fun u =>
    match u.mode with
    | .unconfigured => done s s.block .noResult
    | .configured c =>
      if u.rxFifo.length < c.urxf then done s (s.block.setUart { u with rxFifo := enq u.rxFifo x }) .noResult
      else done s { s.block with cntRxOverrun := bump s.block.cntRxOverrun } .noResult

/-- UART_CTS_SET (41 R186): in every mode. It may enable a UART_TX_BYTE line that holds (R183). -/
def execUartCtsSet (v : Bool) (s : State) : Out :=
  needUart s fun u => .next (s.finish (s.block.setUart { u with ctsIn := v }) .noResult).releaseLine

end Sys2Proof.Machine
end

