-- ==== Sys2Proof/Machine/Dispatch.lean ====
section
/-! DEFINITION. The dispatch of an operation to its meaning: one arm per row of spec/opcode_table.json. -/

namespace Sys2Proof.Machine

def exec (i : Instr) (s : State) : Host.Outcome State Fault Refusal :=
  match i with
  | .setup c => Sys2Proof.Machine.execSetup c s
  | .reset => Sys2Proof.Machine.execReset s
  | .readStatus => Sys2Proof.Machine.execReadStatus s
  | .crc16 data => Sys2Proof.Machine.execCrc16 data s
  | .encodeUart h p => Sys2Proof.Machine.execEncodeUart h p s
  | .encodeSpi h p => Sys2Proof.Machine.execEncodeSpi h p s
  | .decByte x => Sys2Proof.Machine.execDecByte x s
  | .decodeUart data => Sys2Proof.Machine.execDecodeUart data s
  | .decodeSpi t => Sys2Proof.Machine.execDecodeSpi t s
  | .uartTrySend f => Sys2Proof.Machine.execUartTrySend f s
  | .uartPoll => Sys2Proof.Machine.execUartPoll s
  | .uartTxByte => Sys2Proof.Machine.execUartTxByte s
  | .uartRxByte x => Sys2Proof.Machine.execUartRxByte x s
  | .uartCtsSet v => Sys2Proof.Machine.execUartCtsSet v s
  | .spiTrySend f => Sys2Proof.Machine.execSpiTrySend f s
  | .spiPoll => Sys2Proof.Machine.execSpiPoll s
  | .spiCsAssert => Sys2Proof.Machine.execSpiCsAssert s
  | .spiXfer m => Sys2Proof.Machine.execSpiXfer m s
  | .spiCsDeassert => Sys2Proof.Machine.execSpiCsDeassert s

end Sys2Proof.Machine
end

