-- ==== Sys2Proof/Machine/Fetch.lean ====
section
/-! DEFINITION. Where the next operation comes from (log 1): the script, in the order its bytes stand. -/

namespace Sys2Proof.Machine

/-- The next operation of the script and the script after it, or why there is none. -/
def fetch (s : State) : Except Refusal (Instr × List Byte) :=
  match decode s.script with
  | .ok (i, rest) => .ok (i, rest)
  | .error e => .error (.undecodable e)

def State.setScript (s : State) (bs : List Byte) : State := { s with script := bs }

/-- The run has ended (70 R335): no operation is left and no UART_TX_BYTE line still holds (log 6). -/
def State.ended (s : State) : Bool := s.script.isEmpty && !s.lineHeld

end Sys2Proof.Machine
end

