-- ==== Sys2Proof/Machine/Step.lean ====
section
/-! DEFINITION. One step: the next operation of the script, run as one atomic step (00_scope R11). -/

namespace Sys2Proof.Machine

/-- The script moves past the operation, and the operation runs. -/
def step (s : State) : Host.Outcome State Fault Refusal :=
  match fetch s with
  | .ok (i, rest) => exec i (s.setScript rest)
  | .error r => .refused r

/-- `s` with the operation of an opcode-table word as the script (log 1): the very next step runs it. -/
def State.withFetchWord (s : State) (nbits w : Nat) : State := s.setScript (tableBytes nbits w)

end Sys2Proof.Machine
end

