-- ==== Sys2Proof/Machine/Pseudo.lean ====
section
/-! DEFINITION. The pseudo-operations of 30_encoding R106, as the runs of operations they expand to with no other
agent's operation in between (log 18). They have no code and are no constructors of Instr. -/

namespace Sys2Proof.Machine

inductive Pseudo where
  | uartRxBytes (bs : List Byte)
  | uartTxDrain
  | spiTransaction (ms : List Byte)
  | sendUart (h : Hdr) (p : List Byte)
  | sendSpi (h : Hdr) (p : List Byte)
  | decodeAll (bs : List Byte)
  deriving DecidableEq, Repr

/-- What a run of operations leaves: the state, and in order the results the run has. -/
abbrev Run := Host.Outcome (State × List Result) Fault Refusal

def bindRun (x : Run) (k : State × List Result → Run) : Run :=
  match x with
  | .next a => k a
  | .fault f => .fault f
  | .refused r => .refused r

def runOp (i : Instr) (a : State × List Result) : Run :=
  match exec i a.1 with
  | .next t => .next (t, a.2 ++ [t.result])
  | .fault f => .fault f
  | .refused r => .refused r

def runOps : List Instr → State × List Result → Run
  | [], a => .next a
  | i :: is, a => bindRun (runOp i a) (runOps is)

/-- UART_TX_BYTE while it is enabled, at most `k` times. On an SPI instance, where R106 leaves open whether UART_TX_DRAIN
is no step or WRONG_VARIANT, it is no step (DESIGN CHOICE, log 21). -/
def drain : Nat → State × List Result → Run
  | 0, a => .next a
  | k + 1, a => if a.1.txEnabled then bindRun (runOp .uartTxByte a) (drain k) else .next a

/-- The bytes still to transmit: no drain takes more steps. -/
def pendingCount (s : State) : Nat := s.block.txQueue.flatten.length

/-- An encode, then a send of its bytes; an ENC_ERR stops it. -/
def encodeThenSend (enc : Instr) (send : List Byte → Instr) (a : State × List Result) : Run :=
  bindRun (runOp enc a) fun a' =>
    match a'.1.result with
    | .bytes f => runOp (send f) a'
    | _ => .next a'

/-- DECODE_UART on `bs`, and again, at most `k` times, on what it did not consume, until none remain. -/
def decodeRest : Nat → List Byte → State × List Result → Run
  | 0, bs, a => runOp (.decodeUart bs) a
  | k + 1, bs, a =>
    bindRun (runOp (.decodeUart bs) a) fun a' =>
      match a'.1.result with
      | .decCursor _ n => if bs.drop n = [] then .next a' else decodeRest k (bs.drop n) a'
      | _ => .next a'

/-- A whole transaction. Its result is the list of MISO bytes, one result an SPI_XFER: those of the two chip-select
operations are left out. Where the block does not take part an entry is UNDRIVEN (42 R227). -/
def transaction (ms : List Byte) (s : State) : Run :=
  bindRun (runOp .spiCsAssert (s, [])) fun a =>
    bindRun (runOps (ms.map .spiXfer) (a.1, [])) fun b =>
      bindRun (runOp .spiCsDeassert b) fun c => .next (c.1, b.2)

def runPseudo (q : Pseudo) (s : State) : Run :=
  match q with
  | .uartRxBytes bs => runOps (bs.map .uartRxByte) (s, [])
  | .uartTxDrain => drain (pendingCount s) (s, [])
  | .spiTransaction ms => transaction ms s
  | .sendUart h p => encodeThenSend (.encodeUart h p) .uartTrySend (s, [])
  | .sendSpi h p => encodeThenSend (.encodeSpi h p) .spiTrySend (s, [])
  | .decodeAll bs => decodeRest bs.length bs (s, [])

end Sys2Proof.Machine
end

