-- ==== Sys2Proof/Machine/Script.lean ====
section
/-! DEFINITION. The text of stimulus scripts (30_encoding R105, R106): one line of characters to the operation or the
pseudo-operation it writes. What R105 leaves open (spaces, letter case, the form of a header's values) is log 17. -/

namespace Sys2Proof.Machine

/-- What a line of a script is. -/
inductive Line where
  /-- nothing but spaces and a comment -/
  | blank
  | op (i : Instr)
  | pseudo (q : Pseudo)
  deriving DecidableEq, Repr

/-! ## Characters -/

def dropSpaces (cs : List Char) : List Char := cs.dropWhile (· == ' ')

/-- The line without its comment and without the result it states. -/
def cutComment : List Char → List Char
  | [] => []
  | '-' :: '-' :: _ => []
  | '=' :: '>' :: _ => []
  | c :: cs => c :: cutComment cs

def hexDigit (c : Char) : Option Nat :=
  if '0' ≤ c ∧ c ≤ '9' then some (c.toNat - 48)
  else if 'A' ≤ c ∧ c ≤ 'F' then some (c.toNat - 55)
  else if 'a' ≤ c ∧ c ≤ 'f' then some (c.toNat - 87)
  else none

def hexPair (a b : Char) : Option Byte :=
  match hexDigit a, hexDigit b with
  | some x, some y => some (BitVec.ofNat 8 (16 * x + y))
  | _, _ => none

def decimalFrom : Nat → List Char → Option Nat
  | n, [] => some n
  | n, c :: cs => if '0' ≤ c ∧ c ≤ '9' then decimalFrom (10 * n + (c.toNat - 48)) cs else none

/-- A decimal integer of one digit or more. -/
def decimal (cs : List Char) : Option Nat := if cs = [] then none else decimalFrom 0 cs

/-! ## Operands: the value and the characters after it -/

/-- `0xNN`. -/
def readByte : List Char → Option (Byte × List Char)
  | '0' :: 'x' :: a :: b :: cs => (hexPair a b).map (·, cs)
  | _ => none

/-- `0` or `1`. -/
def readLevel : List Char → Option (Bool × List Char)
  | '0' :: cs => some (false, cs)
  | '1' :: cs => some (true, cs)
  | _ => none

/-- Hex pairs apart by spaces, up to the closing bracket. -/
def readPairs : List Char → Option (List Byte × List Char)
  | ']' :: cs => some ([], cs)
  | ' ' :: cs => readPairs cs
  | a :: b :: ']' :: cs => (hexPair a b).map fun x => ([x], cs)
  | a :: b :: ' ' :: cs =>
    match hexPair a b, readPairs cs with
    | some x, some (xs, cs') => some (x :: xs, cs')
    | _, _ => none
  | _ => none

/-- `[NN NN ...]`. -/
def readBytes : List Char → Option (List Byte × List Char)
  | '[' :: cs => readPairs cs
  | _ => none

/-- The character `c`, after spaces. -/
def readChar (c : Char) (cs : List Char) : Option (List Char) :=
  match dropSpaces cs with
  | d :: cs' => if d = c then some cs' else none
  | [] => none

/-- A value of an `hdr`, after spaces. R105 says "in hex" and gives neither digits nor mark: the model reads exactly two
hex digits without `0x`, as 95_test_vectors writes them (DESIGN CHOICE, log 17). -/
def readField (cs : List Char) : Option (Byte × List Char) :=
  match dropSpaces cs with
  | a :: b :: cs' => (hexPair a b).map (·, cs')
  | _ => none

/-- `(ep, ctrl, seq, ack)`. -/
def readHdr (cs : List Char) : Option (Hdr × List Char) := do
  let cs ← readChar '(' cs
  let (ep, cs) ← readField cs
  let cs ← readChar ',' cs
  let (ctrl, cs) ← readField cs
  let cs ← readChar ',' cs
  let (seq, cs) ← readField cs
  let cs ← readChar ',' cs
  let (ack, cs) ← readField cs
  let cs ← readChar ')' cs
  return (⟨ep, ctrl, seq, ack⟩, cs)

/-- `hdr, payload`. -/
def readHdrPayload (cs : List Char) : Option ((Hdr × List Byte) × List Char) := do
  let (h, cs) ← readHdr cs
  let cs ← readChar ',' cs
  let (p, cs) ← readBytes (dropSpaces cs)
  return ((h, p), cs)

/-! ## The configuration record: `key=value` pairs -/

/-- The words between spaces. -/
def splitWords : List Char → List (List Char)
  | [] => [[]]
  | c :: cs =>
    match splitWords cs with
    | w :: ws => if c = ' ' then [] :: w :: ws else (c :: w) :: ws
    | [] => [[c]]

/-- `key=value` apart at the first equals sign. -/
def splitPair (w : List Char) : List Char × List Char :=
  (w.takeWhile (· != '='), (w.dropWhile (· != '=')).drop 1)

def fieldOf (fs : List (List Char × List Char)) (key : String) : Option (List Char) :=
  (fs.find? (fun f => f.1 == key.toList)).map (·.2)

def natField (fs : List (List Char × List Char)) (key : String) : Option Nat :=
  (fieldOf fs key).bind decimal

/-- FLOW by its name; any other word is an illegal value (log 9, log 17). -/
def flowOfWord (w : List Char) : FlowArg :=
  if w = "NONE".toList then .mode .none
  else if w = "CTS_RTS".toList then .mode .ctsRts
  else .other 0xFF

def readCommonFields (fs : List (List Char × List Char)) : Option CommonCfg := do
  let rxq ← natField fs "RXQ"
  let txq ← natField fs "TXQ"
  let maxPayload ← natField fs "MAX_PAYLOAD"
  let epCount ← natField fs "EP_COUNT"
  let seqMod ← natField fs "SEQ_MOD"
  return ⟨rxq, txq, maxPayload, epCount, seqMod⟩

/-- A UART record: 7 fields, or 8 with URXF. -/
def readUartFields (fs : List (List Char × List Char)) : Option CfgArg := do
  let common ← readCommonFields fs
  let baud ← natField fs "BAUD"
  let flow ← fieldOf fs "FLOW"
  match fieldOf fs "URXF" with
  | none => if fs.length = 7 then return .uart ⟨common, baud, flowOfWord flow, none⟩ else none
  | some w =>
    let n ← decimal w
    if fs.length = 8 then return .uart ⟨common, baud, flowOfWord flow, some n⟩ else none

/-- An SPI record: 9 fields. -/
def readSpiFields (fs : List (List Char × List Char)) : Option CfgArg := do
  let common ← readCommonFields fs
  let tTxav ← natField fs "T_TXAV"
  let tCsa ← natField fs "T_CSA"
  let tCsd ← natField fs "T_CSD"
  let tDone ← natField fs "T_DONE"
  if fs.length = 9 then return .spi ⟨common, tTxav, tCsa, tCsd, tDone⟩ else none

def readCfg (cs : List Char) : Option (CfgArg × List Char) :=
  let fs := ((splitWords cs).filter (· ≠ [])).map splitPair
  match readUartFields fs with
  | some c => some (c, [])
  | none => (readSpiFields fs).map (·, [])

/-! ## Lines -/

def mnemonicChar (c : Char) : Bool := ('A' ≤ c ∧ c ≤ 'Z') ∨ ('0' ≤ c ∧ c ≤ '9') ∨ c = '_'

/-- The line `mk` makes of an operand, if nothing but spaces follows it. -/
def endLine {α : Type} (mk : α → Line) : Option (α × List Char) → Option Line
  | some (x, cs) => if dropSpaces cs = [] then some (mk x) else none
  | none => none

/-- What stands after a mnemonic, read as its operands. -/
def readOperands (m : List Char) (cs : List Char) : Option Line :=
  let is (name : String) : Bool := m == name.toList
  if is "SETUP" then endLine (.op ∘ .setup) (readCfg cs)
  else if is "RESET" then endLine (fun _ => .op .reset) (some ((), cs))
  else if is "READ_STATUS" then endLine (fun _ => .op .readStatus) (some ((), cs))
  else if is "CRC16" then endLine (.op ∘ .crc16) (readBytes cs)
  else if is "ENCODE_UART" then endLine (fun a => .op (.encodeUart a.1 a.2)) (readHdrPayload cs)
  else if is "ENCODE_SPI" then endLine (fun a => .op (.encodeSpi a.1 a.2)) (readHdrPayload cs)
  else if is "DEC_BYTE" then endLine (.op ∘ .decByte) (readByte cs)
  else if is "DECODE_UART" then endLine (.op ∘ .decodeUart) (readBytes cs)
  else if is "DECODE_SPI" then endLine (.op ∘ .decodeSpi) (readBytes cs)
  else if is "UART_TRY_SEND" then endLine (.op ∘ .uartTrySend) (readBytes cs)
  else if is "UART_POLL" then endLine (fun _ => .op .uartPoll) (some ((), cs))
  else if is "UART_TX_BYTE" then endLine (fun _ => .op .uartTxByte) (some ((), cs))
  else if is "UART_RX_BYTE" then endLine (.op ∘ .uartRxByte) (readByte cs)
  else if is "UART_CTS_SET" then endLine (.op ∘ .uartCtsSet) (readLevel cs)
  else if is "SPI_TRY_SEND" then endLine (.op ∘ .spiTrySend) (readBytes cs)
  else if is "SPI_POLL" then endLine (fun _ => .op .spiPoll) (some ((), cs))
  else if is "SPI_CS_ASSERT" then endLine (fun _ => .op .spiCsAssert) (some ((), cs))
  else if is "SPI_XFER" then endLine (.op ∘ .spiXfer) (readByte cs)
  else if is "SPI_CS_DEASSERT" then endLine (fun _ => .op .spiCsDeassert) (some ((), cs))
  else if is "UART_RX_BYTES" then endLine (.pseudo ∘ .uartRxBytes) (readBytes cs)
  else if is "UART_TX_DRAIN" then endLine (fun _ => .pseudo .uartTxDrain) (some ((), cs))
  else if is "SPI_TRANSACTION" then endLine (.pseudo ∘ .spiTransaction) (readBytes cs)
  else if is "SEND_UART" then endLine (fun a => .pseudo (.sendUart a.1 a.2)) (readHdrPayload cs)
  else if is "SEND_SPI" then endLine (fun a => .pseudo (.sendSpi a.1 a.2)) (readHdrPayload cs)
  else if is "DECODE_ALL" then endLine (.pseudo ∘ .decodeAll) (readBytes cs)
  else none

/-- One line of a script, or none where it is no line of R105. -/
def readLine (cs : List Char) : Option Line :=
  let cs := dropSpaces (cutComment cs)
  if cs = [] then some .blank
  else readOperands (cs.takeWhile mnemonicChar) (dropSpaces (cs.dropWhile mnemonicChar))

/-- A line run on a state, with the results of its operations in order. -/
def runLine (l : Line) (s : State) : Run :=
  match l with
  | .blank => .next (s, [])
  | .op i => runOp i (s, [])
  | .pseudo q => runPseudo q s

end Sys2Proof.Machine
end

