-- ==== Sys2Proof/Safety.lean ====
section
/-! DEFINITION. What claims about the machine are stated in: the invariant of the state (the capacities, ranges and
"always holds" sentences of 10_state R23 to R44), the moves of the agents (00_scope R12), the stream of bytes a UART
instance owes its wire (20_memory R78), and fairness (41 R191). -/

namespace Sys2Proof.Safety

open Sys2Proof.Machine

/-! ## Legal configurations (00_scope R9, 43 R261, 10 R44) -/

structure LegalCommon (c : CommonCfg) : Prop where
  rxq        : 1 ≤ c.rxq
  txq        : 1 ≤ c.txq
  maxPayload : c.maxPayload ≤ 65535
  epCount    : 1 ≤ c.epCount ∧ c.epCount ≤ 256
  seqMod     : 2 ≤ c.seqMod ∧ c.seqMod ≤ 256

structure LegalUart (c : UartCfg) : Prop where
  common : LegalCommon c.common
  baud   : 1 ≤ c.baud
  urxf   : 1 ≤ c.urxf

structure LegalSpi (trigNs : Nat) (c : SpiCfg) : Prop where
  common : LegalCommon c.common
  range  : ∀ t ∈ trigIds c, t < trigNs
  nodup  : (trigIds c).Nodup

/-! ## The invariant -/

/-- The stream decoder (10 R39, 40 R141): its buffer's capacity; a marked region holds no open escape, and an overflowed
one no bytes. -/
structure DecInv (frameMax : Nat) (d : Dec) : Prop where
  buf      : d.buf.length ≤ frameMax
  marked   : d.bad ≠ .none → d.esc = false
  overflow : d.bad = .overflow → d.buf = []

/-- Every frame has 1 to `max` bytes (10 R25, R28). -/
def FramesWithin (max : Nat) (q : List (List Byte)) : Prop := ∀ f ∈ q, 1 ≤ f.length ∧ f.length ≤ max

/-- What both variants clear while UNCONFIGURED (43 R263, 70 R322). -/
structure BlockCleared (b : Block) : Prop where
  txQueue      : b.txQueue = []
  dec          : b.dec = Dec.init
  cntTxFrames  : b.cntTxFrames = 0
  cntRxOverrun : b.cntRxOverrun = 0

/-- A CONFIGURED UART instance (10 R25 to R27, R39). -/
structure UartRunning (c : UartCfg) (b : Block) (u : UartState) : Prop where
  legal    : LegalUart c
  txLength : b.txQueue.length ≤ c.common.txq
  frames   : FramesWithin (uartEncMaxOf c.common.maxPayload) b.txQueue
  posEmpty : b.txQueue = [] → u.txPos = 0
  posHead  : b.txQueue ≠ [] → u.txPos < (headFrame b.txQueue).length
  fifo     : u.rxFifo.length ≤ c.urxf
  dec      : DecInv (frameMaxOf c.common.maxPayload) b.dec

/-- A CONFIGURED SPI instance (10 R25, R28 to R34, R39; 42 R222). -/
structure SpiRunning (c : SpiCfg) (b : Block) (p : SpiState) : Prop where
  legal     : LegalSpi b.trigNs c
  txLength  : b.txQueue.length ≤ c.common.txq
  frames    : FramesWithin (frameMaxOf c.common.maxPayload) b.txQueue
  rxLength  : p.rxQueue.length ≤ c.common.rxq
  rxFrames  : FramesWithin (frameMaxOf c.common.maxPayload) p.rxQueue
  rxCur     : p.rxCur.length = min p.xferPos (frameMaxOf c.common.maxPayload)
  selected  : p.xferActive = true → p.csIn = true
  outside   : p.xferActive = false → p.txLoaded = false ∧ p.xferPos = 0 ∧ p.doneSent = false
  loaded    : p.txLoaded = true → b.txQueue ≠ []
  doneSent  : p.doneSent = true ↔ p.txLoaded = true ∧ (headFrame b.txQueue).length ≤ p.xferPos
  available : p.txAvailOut = availLevel b.txQueue p
  dec       : DecInv (frameMaxOf c.common.maxPayload) b.dec

/-- An UNCONFIGURED SPI instance: no transaction, nothing received, nothing counted, nothing signalled. -/
structure SpiCleared (p : SpiState) : Prop where
  rxQueue        : p.rxQueue = []
  rxCur          : p.rxCur = []
  xferActive     : p.xferActive = false
  txLoaded       : p.txLoaded = false
  xferPos        : p.xferPos = 0
  doneSent       : p.doneSent = false
  txAvailOut     : p.txAvailOut = false
  cntTxTruncated : p.cntTxTruncated = 0
  cntRxIdle      : p.cntRxIdle = 0
  cntRxClipped   : p.cntRxClipped = 0

def UartInv (b : Block) (u : UartState) : Prop :=
  match u.mode with
  | .unconfigured => BlockCleared b ∧ u.txPos = 0 ∧ u.rxFifo = []
  | .configured c => UartRunning c b u

def SpiInv (b : Block) (p : SpiState) : Prop :=
  match p.mode with
  | .unconfigured => BlockCleared b ∧ SpiCleared p
  | .configured c => SpiRunning c b p

/-- The invariant of a block. -/
def BlockInv (b : Block) : Prop :=
  0 < b.trigNs ∧
  match b.adapter with
  | .uart u => UartInv b u
  | .spi p => SpiInv b p

/-- The invariant of the machine: that of its block. The run's own fields are unconstrained by it: `lineHeld` has
`LineInv`. -/
def MachineInv (s : State) : Prop := BlockInv s.block

/-- A line that holds waits for UART_TX_BYTE to be enabled (41 R183; log 6). -/
def LineInv (s : State) : Prop := s.lineHeld = true → s.txEnabled = false

/-! ## Moves and runs (00_scope R12, 20_memory R77) -/

/-- Some agent's operation takes the machine from `s` to `t`. -/
def Move (s t : State) : Prop := ∃ i, exec i s = .next t

/-- The states some order of operations leads to on the instance of variant `v` with `trigNs` trigger ids. -/
inductive Reachable (v : Variant) (trigNs : Nat) : State → Prop where
  | powerOn : Reachable v trigNs (State.powerOn v trigNs)
  | move {s t : State} : Reachable v trigNs s → Move s t → Reachable v trigNs t

/-- An endless run: the operation `μ n` takes the state `σ n` to the next one. -/
def EndlessRun (σ : Nat → State) (μ : Nat → Instr) : Prop := ∀ n, exec (μ n) (σ n) = .next (σ (n + 1))

/-- TXE is weakly fair (41 R191): while UART_TX_BYTE stays enabled, it is eventually taken. -/
def TxeFair (σ : Nat → State) (μ : Nat → Instr) : Prop :=
  ∀ n, (∀ m, n ≤ m → (σ m).txEnabled = true) → ∃ m, n ≤ m ∧ μ m = .uartTxByte

/-- A step that neither faults nor is refused. -/
def SafeStep (s : State) : Prop := ∃ t, step s = .next t

/-! ## The UART transmit stream (20_memory R78) -/

/-- The bytes a UART instance has sent and those it still owes: the whole of what it accepted, in order. -/
def txStream (b : Block) (u : UartState) : List Byte := u.wireTx ++ b.txQueue.flatten.drop u.txPos

/-- The bytes an operation added to what the instance owes: those of a frame UART_TRY_SEND accepted. -/
def acceptedBytes (i : Instr) (r : Result) : List Byte :=
  match i, r with
  | .uartTrySend f, .sent => f
  | _, _ => []

end Sys2Proof.Safety
end

