-- ==== Sys2Proof/Certificates/Slice0/Obligations.lean ====
section
/-! DEFINITION. The statements about the machine, from the numbered rules of spec/. A helper of a statement stands before
it, under Sys2Proof.Spec, written from the rule it names and not from the model. -/

namespace Sys2Proof.Spec

open Sys2Proof.Machine

/-- The reason beside the first condition that holds. -/
def firstOf {α : Type} (l : List (Bool × α)) : Option α := (l.find? (·.1)).map (·.2)

/-- Rows 1 to 5 of 43 R261. -/
def commonRows (c : CommonCfg) : List (Bool × CfgReason) :=
  [(decide (c.rxq < 1), .badRxq), (decide (c.txq < 1), .badTxq), (decide (c.maxPayload > 65535), .badMaxPayload),
   (decide (c.epCount < 1 ∨ c.epCount > 256), .badEpCount), (decide (c.seqMod < 2 ∨ c.seqMod > 256), .badSeqMod)]

/-- URXF of a record, or the default of 43 R260. -/
def urxf (a : UartCfgArg) : Nat := a.urxf.getD (a.common.rxq * (2 * (8 + a.common.maxPayload) + 1))

/-- The rows of 43 R261 for a UART record. -/
def uartRows (a : UartCfgArg) : List (Bool × CfgReason) :=
  commonRows a.common ++
    [(decide (a.baud < 1), .badBaud), (decide (a.flow ≠ .mode .none ∧ a.flow ≠ .mode .ctsRts), .badFlow),
     (decide (urxf a < 1), .badRxFifo)]

/-- The rows of 43 R261 for an SPI record. -/
def spiRows (trigNs : Nat) (c : SpiCfg) : List (Bool × CfgReason) :=
  commonRows c.common ++
    [(decide (c.tTxav ≥ trigNs ∨ c.tCsa ≥ trigNs ∨ c.tCsd ≥ trigNs ∨ c.tDone ≥ trigNs), .trigRange),
     (decide (c.tTxav = c.tCsa ∨ c.tTxav = c.tCsd ∨ c.tTxav = c.tDone ∨ c.tCsa = c.tCsd ∨ c.tCsa = c.tDone ∨
        c.tCsd = c.tDone), .trigDup)]

/-- The order of 40 R132. -/
def hdrRows (c : CommonCfg) (h : Hdr) (len : Nat) : List (Bool × HdrReason) :=
  [(decide (len > c.maxPayload), .overlength), (decide (h.ep.toNat ≥ c.epCount), .badEp),
   (decide (h.ctrl.toNat ≥ 32), .badFlags), (decide (h.seq.toNat ≥ c.seqMod ∨ h.ack.toNat ≥ c.seqMod), .badSeq)]

/-- A header and a payload for which `hdr_check` gives OK (40 R132). -/
def LegalFrame (c : CommonCfg) (h : Hdr) (p : List Byte) : Prop :=
  p.length ≤ c.maxPayload ∧ h.ep.toNat < c.epCount ∧ h.ctrl.toNat < 32 ∧ h.seq.toNat < c.seqMod ∧
    h.ack.toNat < c.seqMod

/-- The order of 40 R138, with the length field `len` of the content `b`. -/
def contentRows (c : CommonCfg) (b : List Byte) (len : Nat) : List (Bool × CorruptReason) :=
  [(decide (b.length < 8), .short),
   (decide ((crc16 (b.take (b.length - 2))).toNat ≠
      (b.getD (b.length - 2) 0).toNat + 256 * (b.getD (b.length - 1) 0).toNat), .crcMismatch),
   (decide (len ≠ b.length - 8), .badLength), (decide (len > c.maxPayload), .overlength),
   (decide ((b.getD 0 0).toNat ≥ c.epCount), .badEp), (decide ((b.getD 1 0).toNat ≥ 32), .badFlags),
   (decide ((b.getD 2 0).toNat ≥ c.seqMod ∨ (b.getD 3 0).toNat ≥ c.seqMod), .badSeq)]

/-- One shift of a CRC register taking in the message bit `m` at its top. -/
def crcSerialBit (c : Half) (m : Bool) : Half := if c.msb != m then (c <<< 1) ^^^ 0x1021 else c <<< 1

/-- The bits of a byte, most significant first. -/
def msbFirst (b : Byte) : List Bool :=
  [b.getLsbD 7, b.getLsbD 6, b.getLsbD 5, b.getLsbD 4, b.getLsbD 3, b.getLsbD 2, b.getLsbD 1, b.getLsbD 0]

/-- The 19 codes of 30 R101. -/
def listedCodes : List Byte :=
  [0x01, 0x02, 0x03, 0x10, 0x11, 0x12, 0x13, 0x14, 0x15, 0x20, 0x21, 0x22, 0x28, 0x29, 0x30, 0x31, 0x38, 0x39, 0x3A]

/-- The groups of 30 R100: 0 control, 1 codec, 2 UART adapter, 3 SPI adapter. -/
def group : Instr → Nat
  | .setup _ => 0
  | .reset => 0
  | .readStatus => 0
  | .crc16 _ => 1
  | .encodeUart _ _ => 1
  | .encodeSpi _ _ => 1
  | .decByte _ => 1
  | .decodeUart _ => 1
  | .decodeSpi _ => 1
  | .uartTrySend _ => 2
  | .uartPoll => 2
  | .uartTxByte => 2
  | .uartRxByte _ => 2
  | .uartCtsSet _ => 2
  | .spiTrySend _ => 3
  | .spiPoll => 3
  | .spiCsAssert => 3
  | .spiXfer _ => 3
  | .spiCsDeassert => 3

/-- The operations of 60 R294's NOT_CONFIGURED row. -/
def needsSetup : Instr → Bool
  | .encodeUart _ _ => true
  | .encodeSpi _ _ => true
  | .decByte _ => true
  | .decodeUart _ => true
  | .decodeSpi _ => true
  | .uartTrySend _ => true
  | .uartPoll => true
  | .spiTrySend _ => true
  | .spiPoll => true
  | _ => false

/-- The operation exists on the block's variant (30 R101). -/
def onVariant (i : Instr) (b : Block) : Prop := i.variant? = none ∨ i.variant? = some b.variant

/-- A send of an empty frame, or of one longer than the adapter takes (60 R294). -/
def badLength (i : Instr) (c : CommonCfg) : Prop :=
  (∃ f, i = .uartTrySend f ∧ (f.length = 0 ∨ f.length > 2 * (8 + c.maxPayload) + 1)) ∨
  (∃ f, i = .spiTrySend f ∧ (f.length = 0 ∨ f.length > 8 + c.maxPayload))

/-- The results each operation may return (60 R291). -/
def mayReturn : Instr → Result → Bool
  | .setup _, .cfgOk => true
  | .setup _, .cfgLocked => true
  | .setup _, .cfgInvalid _ => true
  | .reset, .noResult => true
  | .readStatus, .status _ => true
  | .crc16 _, .crc _ => true
  | .encodeUart _ _, .bytes _ => true
  | .encodeUart _ _, .encErr _ => true
  | .encodeSpi _ _, .bytes _ => true
  | .encodeSpi _ _, .encErr _ => true
  | .decByte _, .dec _ => true
  | .decodeUart _, .decCursor _ _ => true
  | .decodeSpi _, .spiDec _ => true
  | .uartTrySend _, .sent => true
  | .uartTrySend _, .busy => true
  | .uartPoll, .bytes _ => true
  | .uartPoll, .pollNone => true
  | .uartTxByte, .byteSent _ => true
  | .uartTxByte, .held => true
  | .uartRxByte _, .noResult => true
  | .uartCtsSet _, .noResult => true
  | .spiTrySend _, .sent => true
  | .spiTrySend _, .busy => true
  | .spiPoll, .bytes _ => true
  | .spiPoll, .pollNone => true
  | .spiCsAssert, .noResult => true
  | .spiXfer _, .miso _ => true
  | .spiXfer _, .undriven _ => true
  | .spiCsDeassert, .noResult => true
  | _, _ => false

/-- Whether the record is one of variant `v`. -/
def recordOf (v : Variant) : CfgArg → Bool
  | .uart _ => v == .uart
  | .spi _ => v == .spi

/-- The bytes a DECODE_UART consumed, and what DEC_BYTE on each of them answers (40 R145): NEED_MORE_DATA on all of
them, or on all but the last. -/
def streamResults (r : DecResult) (n : Nat) : List Result :=
  match r with
  | .needMoreData => List.replicate n (.dec .needMoreData)
  | .verdict v => List.replicate (n - 1) (.dec .needMoreData) ++ [.dec (.verdict v)]

end Sys2Proof.Spec

open Sys2Proof Sys2Proof.Machine Sys2Proof.Safety Sys2Proof.Spec

/-! ## Encoding and step (30 R100 to R104, 00 R11) -/

/-- Decoding the bytes of a well-formed operation gives it back, whatever follows. Rests on the model's operand
serialisation (log 2). -/
def Obligations.EncodedOperationsDecodeToThemselves : Prop :=
  ∀ (i : Instr) (rest : List Byte), i.wellFormed = true → decode (encode i ++ rest) = .ok (i, rest)

/-- The other direction: bytes that decode are the encoding of what they decode to, which is well-formed; each
operation has one spelling. Rests on the model's operand serialisation (log 2). -/
def Obligations.DecodedBytesAreTheEncoding : Prop :=
  ∀ (bs : List Byte) (i : Instr) (rest : List Byte), decode bs = .ok (i, rest) →
    i.wellFormed = true ∧ bs = encode i ++ rest

/-- 30 R102: the 237 unlisted codes spell no operation, and a listed code of the other variant faults. -/
def Obligations.ReservedCodesAreRefused : Prop :=
  (((List.range 256).map (BitVec.ofNat 8)).filter (fun code => !listedCodes.contains code)).length = 237 ∧
  (∀ (s : State) (code : Byte) (bs : List Byte), code ∉ listedCodes → s.script = code :: bs →
    step s = .refused (.undecodable (.reservedCode code))) ∧
  (∀ (s : State) (i : Instr) (v : Variant), i.variant? = some v → v ≠ s.block.variant →
    exec i s = .fault (.wrongVariant s.stepIndex)) ∧
  (∀ i : Instr, (i.variant? = some .uart ↔ i.code.toNat / 16 = 2) ∧ (i.variant? = some .spi ↔ i.code.toNat / 16 = 3))

/-- 30 R100: op[7:4] is the group and op[3] is 1 exactly for the PEER's operations; the code is the one byte an
operation starts with. -/
def Obligations.CodeNamesGroupAndAgent : Prop :=
  ∀ i : Instr, (∃ operands, encode i = i.code :: operands) ∧ i.code ∈ listedCodes ∧
    i.code.toNat / 16 = group i ∧ (i.code.getLsbD 3 = true ↔ i.agent = .peer)

/-- Words written out from 30 R101 and R103, for every family: the code byte, then the operands as log 2 lays them
out. -/
def Obligations.WrittenOutWordsDecode : Prop :=
  decode [0x02] = .ok (.reset, []) ∧
  decode [0x01, 1, 1, 10, 0, 1, 10, 0, 1, 64, 0, 1, 4, 0, 1, 0, 1, 1, 0, 1, 1, 0, 1, 2, 0, 1, 3, 0, 1, 4, 0] =
    .ok (.setup (.spi ⟨⟨10, 10, 64, 4, 256⟩, 1, 2, 3, 4⟩), []) ∧
  decode [0x13, 0x7E] = .ok (.decByte 0x7E, []) ∧
  decode [0x11, 1, 2, 3, 4, 1, 0x48, 1, 0x69, 0] = .ok (.encodeUart ⟨1, 2, 3, 4⟩ [0x48, 0x69], []) ∧
  decode [0x29, 1, 0x22] = .ok (.uartCtsSet true, [0x22]) ∧
  decode [0x39, 0x55] = .ok (.spiXfer 0x55, [])

/-- A step runs the operation the script's bytes decode to, with the script moved past it; bytes that decode to none are
refused (log 1). -/
def Obligations.StepRunsDecodedOperation : Prop :=
  (∀ (s : State) (i : Instr) (rest : List Byte), decode s.script = .ok (i, rest) →
    step s = exec i { s with script := rest }) ∧
  (∀ (s : State) (e : DecodeError), decode s.script = .error e → step s = .refused (.undecodable e))

/-! ## Power-on, SETUP, RESET, READ_STATUS (43, 70) -/

/-- 70 R320: every element at its power-on value, the derived outputs with them, on either variant. -/
def Obligations.PowerOnState : Prop :=
  ∀ n : Nat,
    (State.powerOn .uart n).block =
      { trigNs := n, txQueue := [], dec := ⟨[], false, .none⟩, cntTxFrames := 0, cntRxOverrun := 0
        adapter := .uart { mode := .unconfigured, txPos := 0, rxFifo := [], ctsIn := false, wireTx := [] } } ∧
    (State.powerOn .spi n).block =
      { trigNs := n, txQueue := [], dec := ⟨[], false, .none⟩, cntTxFrames := 0, cntRxOverrun := 0
        adapter := .spi
          { mode := .unconfigured, rxQueue := [], rxCur := [], xferActive := false, txLoaded := false, xferPos := 0
            doneSent := false, txAvailOut := false, csIn := false, cntTxTruncated := 0, cntRxIdle := 0
            cntRxClipped := 0, trigOut := [] } } ∧
    rtsOut UartState.powerOn = false ∧
    (∀ v, (State.powerOn v n).block.rxReady = false ∧ (State.powerOn v n).block.modeName = .unconfigured)

/-- 43 R260, R261, R262: a locked block refuses a SETUP; else the first row that fails is the reason and nothing
changes; else the block is configured, every queue, position, decoder element and counter cleared, `cts_in`, `cs_in`
and the traces kept, and no trigger emitted. Two clauses rest on the model: CFG_LOCKED for a record of the other variant
is its choice (log 8), and that the stored record holds URXF's default is its inference (log 10). -/
def Obligations.SetupFollowsItsRules : Prop :=
  (∀ (s : State) (c : CfgArg), s.block.modeName = .configured →
    exec (.setup c) s = .next { s with result := .cfgLocked, stepIndex := s.stepIndex + 1 }) ∧
  (∀ (s : State) (u : UartState) (a : UartCfgArg), s.block.adapter = .uart u → u.mode = .unconfigured →
    (∀ r, firstOf (uartRows a) = some r →
      exec (.setup (.uart a)) s = .next { s with result := .cfgInvalid r, stepIndex := s.stepIndex + 1 }) ∧
    (∀ m, a.flow = .mode m → firstOf (uartRows a) = none →
      exec (.setup (.uart a)) s = .next
        { s with
          block :=
            { trigNs := s.block.trigNs, txQueue := [], dec := ⟨[], false, .none⟩, cntTxFrames := 0, cntRxOverrun := 0
              adapter := .uart
                { mode := .configured { common := a.common, baud := a.baud, flow := m, urxf := urxf a }
                  txPos := 0, rxFifo := [], ctsIn := u.ctsIn, wireTx := u.wireTx } }
          result := .cfgOk, stepIndex := s.stepIndex + 1 })) ∧
  (∀ (s : State) (p : SpiState) (c : SpiCfg), s.block.adapter = .spi p → p.mode = .unconfigured →
    (∀ r, firstOf (spiRows s.block.trigNs c) = some r →
      exec (.setup (.spi c)) s = .next { s with result := .cfgInvalid r, stepIndex := s.stepIndex + 1 }) ∧
    (firstOf (spiRows s.block.trigNs c) = none →
      exec (.setup (.spi c)) s = .next
        { s with
          block :=
            { trigNs := s.block.trigNs, txQueue := [], dec := ⟨[], false, .none⟩, cntTxFrames := 0, cntRxOverrun := 0
              adapter := .spi
                { mode := .configured c, rxQueue := [], rxCur := [], xferActive := false, txLoaded := false
                  xferPos := 0, doneSent := false, txAvailOut := false, csIn := p.csIn, cntTxTruncated := 0
                  cntRxIdle := 0, cntRxClipped := 0, trigOut := p.trigOut } }
          result := .cfgOk, stepIndex := s.stepIndex + 1 }))

/-- The one refusal of exec, the model's choice (log 8): SETUP, while UNCONFIGURED, with a record of the other
variant. -/
def Obligations.OnlyForeignRecordsAreRefused : Prop :=
  ∀ (i : Instr) (s : State) (r : Refusal), exec i s = .refused r ↔
    r = .recordOfOtherVariant ∧ s.block.modeName = .unconfigured ∧
      ∃ c, i = .setup c ∧ recordOf s.block.variant c = false

/-- 43 R263: RESET, in every mode, puts everything but the input mirrors and the traces back to power-on. -/
def Obligations.ResetReturnsToUnconfigured : Prop :=
  (∀ (s : State) (u : UartState), s.block.adapter = .uart u →
    exec .reset s = .next
      { s with
        block :=
          { trigNs := s.block.trigNs, txQueue := [], dec := ⟨[], false, .none⟩, cntTxFrames := 0, cntRxOverrun := 0
            adapter := .uart
              { mode := .unconfigured, txPos := 0, rxFifo := [], ctsIn := u.ctsIn, wireTx := u.wireTx } }
        result := .noResult, stepIndex := s.stepIndex + 1 }) ∧
  (∀ (s : State) (p : SpiState), s.block.adapter = .spi p →
    exec .reset s = .next
      { s with
        block :=
          { trigNs := s.block.trigNs, txQueue := [], dec := ⟨[], false, .none⟩, cntTxFrames := 0, cntRxOverrun := 0
            adapter := .spi
              { mode := .unconfigured, rxQueue := [], rxCur := [], xferActive := false, txLoaded := false, xferPos := 0
                doneSent := false, txAvailOut := false, csIn := p.csIn, cntTxTruncated := 0, cntRxIdle := 0
                cntRxClipped := 0, trigOut := p.trigOut } }
        result := .noResult, stepIndex := s.stepIndex + 1 })

/-- 43 R264, with 10 R37 and R38: the record's every field, and no state of the block changed. -/
def Obligations.ReadStatusReportsEveryField : Prop :=
  (∀ (s : State) (u : UartState), s.block.adapter = .uart u →
    exec .readStatus s = .next
      { s with
        result := .status
          { mode := match u.mode with | .unconfigured => .unconfigured | .configured _ => .configured
            variant := .uart
            cfg := match u.mode with | .unconfigured => .none | .configured c => .uart c
            txQueueLen := s.block.txQueue.length, rxReady := decide (u.rxFifo.length > 0)
            decBufLen := s.block.dec.buf.length, decEsc := s.block.dec.esc, decBad := s.block.dec.bad
            cntTxFrames := s.block.cntTxFrames, cntRxOverrun := s.block.cntRxOverrun
            adapter := .uart
              { txPos := u.txPos, rxFifoLen := u.rxFifo.length, ctsIn := u.ctsIn
                rtsOut := match u.mode with
                  | .unconfigured => false
                  | .configured c => decide (c.flow = .none ∨ u.rxFifo.length < c.urxf) } }
        stepIndex := s.stepIndex + 1 }) ∧
  (∀ (s : State) (p : SpiState), s.block.adapter = .spi p →
    exec .readStatus s = .next
      { s with
        result := .status
          { mode := match p.mode with | .unconfigured => .unconfigured | .configured _ => .configured
            variant := .spi
            cfg := match p.mode with | .unconfigured => .none | .configured c => .spi c
            txQueueLen := s.block.txQueue.length, rxReady := decide (p.rxQueue.length > 0)
            decBufLen := s.block.dec.buf.length, decEsc := s.block.dec.esc, decBad := s.block.dec.bad
            cntTxFrames := s.block.cntTxFrames, cntRxOverrun := s.block.cntRxOverrun
            adapter := .spi
              { csIn := p.csIn, xferActive := p.xferActive, txLoaded := p.txLoaded, xferPos := p.xferPos
                doneSent := p.doneSent, txAvailOut := p.txAvailOut, rxQueueLen := p.rxQueue.length
                rxCurLen := p.rxCur.length, cntTxTruncated := p.cntTxTruncated, cntRxIdle := p.cntRxIdle
                cntRxClipped := p.cntRxClipped } }
        stepIndex := s.stepIndex + 1 })

/-! ## The codec (30 R90 to R98, 40) -/

/-- 40 R131 with the corner cases: CRC16 runs in any mode, on either variant, and writes no state of the block. -/
def Obligations.Crc16RunsInEveryMode : Prop :=
  (∀ (s : State) (data : List Byte),
    exec (.crc16 data) s = .next { s with result := .crc (crc16 data), stepIndex := s.stepIndex + 1 }) ∧
  crc16 [] = 0xFFFF ∧ crc16 [0x00] = 0xE1F0 ∧ crc16 [0xFF] = 0xFF00 ∧
  crc16 [0x01, 0x01, 0x00, 0x00, 0x02, 0x00, 0x48, 0x69] = 0x5A0E

/-- 40 R130 said bit by bit: the register that takes in each message bit, most significant first, and divides by
x^16 + x^12 + x^5 + 1, from 0xFFFF. -/
def Obligations.CrcIsTheBitSerialDivision : Prop :=
  ∀ s : List Byte, crc16 s = (s.flatMap msbFirst).foldl crcSerialBit 0xFFFF

/-- 30 R93 with R91 and R94: the layout of a content, its two 16-bit fields little-endian. -/
def Obligations.ContentLayout : Prop :=
  ∀ (h : Hdr) (p : List Byte), p.length ≤ 65535 →
    ∃ body : List Byte,
      body = [h.ep, h.ctrl, h.seq, h.ack, BitVec.ofNat 8 (p.length % 256), BitVec.ofNat 8 (p.length / 256)] ++ p ∧
      content h p = body ++
        [BitVec.ofNat 8 ((crc16 body).toNat % 256), BitVec.ofNat 8 ((crc16 body).toNat / 256)] ∧
      (content h p).length = 8 + p.length

/-- 30 R95: stuffing maps each byte on its own. -/
def Obligations.StuffingEscapesFlagAndEsc : Prop :=
  ∀ s : List Byte, stuff s =
    s.flatMap (fun b => if b = 0x7E then [0x7D, 0x5E] else if b = 0x7D then [0x7D, 0x5D] else [b])

/-- 30 R96: one FLAG, at the end, and a length from 9 to UART_ENC_MAX. -/
def Obligations.UartFrameEndsInItsOnlyFlag : Prop :=
  ∀ (c : CommonCfg) (h : Hdr) (p : List Byte), p.length ≤ c.maxPayload →
    uartFrame h p = stuff (content h p) ++ [0x7E] ∧ 0x7E ∉ stuff (content h p) ∧
      9 ≤ (uartFrame h p).length ∧ (uartFrame h p).length ≤ 2 * (8 + c.maxPayload) + 1

/-- 40 R135 with R132: the first reason of the header check, or the stuffed content and its FLAG. -/
def Obligations.EncodeUartResult : Prop :=
  (∀ (s : State) (c : CommonCfg) (h : Hdr) (p : List Byte), s.block.common? = some c →
    exec (.encodeUart h p) s = .next
      { s with
        result := match firstOf (hdrRows c h p.length) with
          | some r => .encErr r
          | none => .bytes (stuff (content h p) ++ [0x7E])
        stepIndex := s.stepIndex + 1 }) ∧
  (∀ (s : State) (h : Hdr) (p : List Byte), s.block.common? = none →
    exec (.encodeUart h p) s = .fault (.notConfigured s.stepIndex))

/-- 40 R136 with R132: the first reason of the header check, or the content as it is. -/
def Obligations.EncodeSpiResult : Prop :=
  (∀ (s : State) (c : CommonCfg) (h : Hdr) (p : List Byte), s.block.common? = some c →
    exec (.encodeSpi h p) s = .next
      { s with
        result := match firstOf (hdrRows c h p.length) with
          | some r => .encErr r
          | none => .bytes (content h p)
        stepIndex := s.stepIndex + 1 }) ∧
  (∀ (s : State) (h : Hdr) (p : List Byte), s.block.common? = none →
    exec (.encodeSpi h p) s = .fault (.notConfigured s.stepIndex))

/-- 40 R138: exactly the first failing check in the rule's order is reported, and a frame is its fields. -/
def Obligations.ValidateReportsTheFirstFailure : Prop :=
  ∀ (c : CommonCfg) (b : List Byte) (len : Nat), len = (b.getD 4 0).toNat + 256 * (b.getD 5 0).toNat →
    validate c b = match firstOf (contentRows c b len) with
      | some r => .corrupt r
      | none => .frame ⟨⟨b.getD 0 0, b.getD 1 0, b.getD 2 0, b.getD 3 0⟩, (b.drop 6).take len⟩

/-- 40 R140 to R144: DEC_BYTE in its five cases, whatever the decoder's state, writing DEC and nothing else. -/
def Obligations.DecByteFollowsItsFiveCases : Prop :=
  (∀ (s : State) (c : CommonCfg) (x : Byte), s.block.common? = some c →
    let d := s.block.dec
    let answers (d' : Dec) (r : DecResult) : Prop :=
      exec (.decByte x) s = .next
        { s with block := { s.block with dec := d' }, result := .dec r, stepIndex := s.stepIndex + 1 }
    let appends (y : Byte) : Prop :=
      (d.buf.length = 8 + c.maxPayload → answers ⟨[], false, .overflow⟩ .needMoreData) ∧
      (d.buf.length ≠ 8 + c.maxPayload → answers ⟨d.buf ++ [y], false, .none⟩ .needMoreData)
    (x = 0x7E → d.bad = .badEscape ∨ d.bad = .none ∧ d.esc = true →
      answers ⟨[], false, .none⟩ (.verdict (.corrupt .badEscape))) ∧
    (x = 0x7E → d.bad = .overflow → answers ⟨[], false, .none⟩ (.verdict (.corrupt .overflow))) ∧
    (x = 0x7E → d.bad = .none → d.esc = false → d.buf = [] → answers ⟨[], false, .none⟩ .needMoreData) ∧
    (x = 0x7E → d.bad = .none → d.esc = false → d.buf ≠ [] →
      answers ⟨[], false, .none⟩ (.verdict (validate c d.buf))) ∧
    (x ≠ 0x7E → d.bad ≠ .none → answers d .needMoreData) ∧
    (x = 0x5E → d.bad = .none → d.esc = true → appends 0x7E) ∧
    (x = 0x5D → d.bad = .none → d.esc = true → appends 0x7D) ∧
    (x ≠ 0x7E → x ≠ 0x5E → x ≠ 0x5D → d.bad = .none → d.esc = true →
      answers ⟨d.buf, false, .badEscape⟩ .needMoreData) ∧
    (x = 0x7D → d.bad = .none → d.esc = false → answers ⟨d.buf, true, .none⟩ .needMoreData) ∧
    (x ≠ 0x7E → x ≠ 0x7D → d.bad = .none → d.esc = false → appends x)) ∧
  (∀ (s : State) (x : Byte), s.block.common? = none → exec (.decByte x) s = .fault (.notConfigured s.stepIndex))

/-- 40 R145: DECODE_UART completes, consumes the bytes up to the first result, and leaves the block and gives the
results that DEC_BYTE on each consumed byte would. -/
def Obligations.DecodeUartIsRepeatedDecByte : Prop :=
  (∀ (s : State) (c : CommonCfg) (data : List Byte), s.block.common? = some c →
    ∃ t r n t', exec (.decodeUart data) s = .next t ∧ t.result = .decCursor r n ∧ n ≤ data.length ∧
      (r = .needMoreData → n = data.length) ∧ (r ≠ .needMoreData → 1 ≤ n) ∧
      runOps ((data.take n).map .decByte) (s, []) = .next (t', streamResults r n) ∧
      t = { s with block := t'.block, result := .decCursor r n, stepIndex := s.stepIndex + 1 }) ∧
  (∀ (s : State) (data : List Byte), s.block.common? = none →
    exec (.decodeUart data) s = .fault (.notConfigured s.stepIndex))

/-- 40 R146: DECODE_SPI in the rule's order, writing no state of the block. -/
def Obligations.DecodeSpiResult : Prop :=
  (∀ (s : State) (c : CommonCfg) (data : List Byte) (len : Nat), s.block.common? = some c →
    len = (data.getD 4 0).toNat + 256 * (data.getD 5 0).toNat →
    exec (.decodeSpi data) s = .next
      { s with
        result := .spiDec
          (if ∀ x ∈ data, x = 0 then .empty
           else if data.length < 8 then .verdict (.corrupt .short)
           else if len > c.maxPayload then .verdict (.corrupt .overlength)
           else if data.length < 8 + len then .verdict (.corrupt .short)
           else .verdict (validate c (data.take (8 + len))))
        stepIndex := s.stepIndex + 1 }) ∧
  (∀ (s : State) (data : List Byte), s.block.common? = none →
    exec (.decodeSpi data) s = .fault (.notConfigured s.stepIndex))

/-- 40 R146's note: no content is all FILL, so no frame is ever read as an idle transaction. -/
def Obligations.NoFrameIsAllFill : Prop :=
  ∀ (h : Hdr) (p : List Byte), p.length ≤ 65535 → ∃ x ∈ content h p, x ≠ 0

/-- 40 R134: the five codec operations that read the configuration fault while UNCONFIGURED, and CRC16 does not. -/
def Obligations.CodecNeedsConfiguration : Prop :=
  ∀ (s : State) (h : Hdr) (p : List Byte) (x : Byte), s.block.modeName = .unconfigured →
    exec (.encodeUart h p) s = .fault (.notConfigured s.stepIndex) ∧
    exec (.encodeSpi h p) s = .fault (.notConfigured s.stepIndex) ∧
    exec (.decByte x) s = .fault (.notConfigured s.stepIndex) ∧
    exec (.decodeUart p) s = .fault (.notConfigured s.stepIndex) ∧
    exec (.decodeSpi p) s = .fault (.notConfigured s.stepIndex) ∧
    ∃ t, exec (.crc16 p) s = .next t ∧ t.block = s.block

/-- The spec's own inference 40 R147: the round trip, over both wire forms, for every legal header and payload; on
UART byte by byte from an initial decoder, on SPI with any padding. The configuration's MAX_PAYLOAD is in its legal
range (00 R9). -/
def Obligations.CodecRoundTrip : Prop :=
  ∀ (s : State) (c : CommonCfg) (h : Hdr) (p : List Byte), s.block.common? = some c → c.maxPayload ≤ 65535 →
    LegalFrame c h p →
    (s.block.dec = ⟨[], false, .none⟩ →
      ∃ t w t', exec (.encodeUart h p) s = .next t ∧ t.result = .bytes w ∧
        runOps (w.map .decByte) (s, []) = .next (t',
          List.replicate (w.length - 1) (.dec .needMoreData) ++ [.dec (.verdict (.frame ⟨h, p⟩))]) ∧
        t'.block = s.block) ∧
    ∃ t w, exec (.encodeSpi h p) s = .next t ∧ t.result = .bytes w ∧
      ∀ q, ∃ t', exec (.decodeSpi (w ++ q)) s = .next t' ∧ t'.result = .spiDec (.verdict (.frame ⟨h, p⟩)) ∧
        t'.block = s.block

/-- The spec's own inference 40 R148, its first two sentences: after a FLAG the decoder is initial whatever came
before, so the wire frame after it is decoded as itself. -/
def Obligations.FlagResynchronisesTheDecoder : Prop :=
  ∀ (s : State) (c : CommonCfg) (g : List Byte) (h : Hdr) (p : List Byte), s.block.common? = some c →
    c.maxPayload ≤ 65535 → LegalFrame c h p →
    ∃ t rs t', runOps ((g ++ [0x7E]).map .decByte) (s, []) = .next (t, rs) ∧ t.block.dec = ⟨[], false, .none⟩ ∧
      runOps ((uartFrame h p).map .decByte) (t, rs) = .next (t',
        rs ++ List.replicate ((uartFrame h p).length - 1) (.dec .needMoreData) ++
          [.dec (.verdict (.frame ⟨h, p⟩))]) ∧
      t'.block.dec = ⟨[], false, .none⟩

/-- One flipped bit of a valid content is never delivered: over UART always CRC_MISMATCH at the FLAG; by DECODE_SPI
the same unless the flip is in the length field, which is read first (log 15 says why 40 R149 is not stated as it
stands). -/
def Obligations.SingleBitErrorsAreDetected : Prop :=
  ∀ (s : State) (c : CommonCfg) (h : Hdr) (p : List Byte) (j k : Nat), s.block.common? = some c →
    c.maxPayload ≤ 65535 → LegalFrame c h p → j < 8 + p.length → k < 8 →
    let b := (content h p).set j ((content h p).getD j 0 ^^^ BitVec.twoPow 8 k)
    (s.block.dec = ⟨[], false, .none⟩ →
      ∃ t, runOps ((stuff b ++ [0x7E]).map .decByte) (s, []) = .next (t,
        List.replicate (stuff b).length (.dec .needMoreData) ++ [.dec (.verdict (.corrupt .crcMismatch))])) ∧
    (j ≠ 4 → j ≠ 5 →
      ∃ t, exec (.decodeSpi b) s = .next t ∧ t.result = .spiDec (.verdict (.corrupt .crcMismatch)))

/-! ## The UART adapter (41) -/

/-- 41 R181. Whether a UART_TX_BYTE line still holds after an accepted frame (`v`) is the run's own, said by
UartTxByteHoldsWhileDisabled. -/
def Obligations.UartTrySendResult : Prop :=
  (∀ (s : State) (u : UartState) (f : List Byte), s.block.adapter = .uart u → u.mode = .unconfigured →
    exec (.uartTrySend f) s = .fault (.notConfigured s.stepIndex)) ∧
  (∀ (s : State) (u : UartState) (c : UartCfg) (f : List Byte), s.block.adapter = .uart u → u.mode = .configured c →
    (f.length = 0 ∨ f.length > 2 * (8 + c.common.maxPayload) + 1 →
      exec (.uartTrySend f) s = .fault (.badFrameLen s.stepIndex)) ∧
    (1 ≤ f.length → f.length ≤ 2 * (8 + c.common.maxPayload) + 1 → s.block.txQueue.length = c.common.txq →
      exec (.uartTrySend f) s = .next { s with result := .busy, stepIndex := s.stepIndex + 1 }) ∧
    (1 ≤ f.length → f.length ≤ 2 * (8 + c.common.maxPayload) + 1 → s.block.txQueue.length ≠ c.common.txq →
      ∃ v, exec (.uartTrySend f) s = .next
        { s with
          block := { s.block with txQueue := s.block.txQueue ++ [f] }
          result := .sent, stepIndex := s.stepIndex + 1, lineHeld := v }))

/-- 41 R182: everything buffered, once. -/
def Obligations.UartPollResult : Prop :=
  (∀ (s : State) (u : UartState), s.block.adapter = .uart u → u.mode = .unconfigured →
    exec .uartPoll s = .fault (.notConfigured s.stepIndex)) ∧
  (∀ (s : State) (u : UartState) (c : UartCfg), s.block.adapter = .uart u → u.mode = .configured c →
    (u.rxFifo = [] → exec .uartPoll s = .next { s with result := .pollNone, stepIndex := s.stepIndex + 1 }) ∧
    (u.rxFifo ≠ [] →
      exec .uartPoll s = .next
        { s with
          block := { s.block with adapter := .uart { u with rxFifo := [] } }
          result := .bytes u.rxFifo, stepIndex := s.stepIndex + 1 }) ∧
    (c.flow = .ctsRts → 1 ≤ c.urxf → rtsOut { u with rxFifo := [] } = true))

/-- 41 R184: the byte at `tx_pos` of the head frame goes out; its last byte retires and counts the frame. Enabled as
R183 says; `tx_pos` is inside the frame (10 R26). That no line holds afterwards is the model's own record of R183
(log 6). -/
def Obligations.UartTxByteSendsTheNextByte : Prop :=
  ∀ (s : State) (u : UartState) (c : UartCfg) (f : List Byte) (q : List (List Byte)) (b : Byte),
    s.block.adapter = .uart u → u.mode = .configured c → s.block.txQueue = f :: q → f[u.txPos]? = some b →
    c.flow = .none ∨ u.ctsIn = true →
    (u.txPos + 1 = f.length →
      exec .uartTxByte s = .next
        { s with
          block :=
            { s.block with
              adapter := .uart { u with txPos := 0, wireTx := u.wireTx ++ [b] }
              txQueue := q, cntTxFrames := s.block.cntTxFrames + 1 }
          result := .byteSent b, stepIndex := s.stepIndex + 1, lineHeld := false }) ∧
    (u.txPos + 1 ≠ f.length →
      exec .uartTxByte s = .next
        { s with
          block := { s.block with adapter := .uart { u with txPos := u.txPos + 1, wireTx := u.wireTx ++ [b] } }
          result := .byteSent b, stepIndex := s.stepIndex + 1, lineHeld := false })

/-- 41 R183, with the model's choice for a script's line (log 6): while UART_TX_BYTE is not enabled, the block does
not move and the line holds; and after any operation a line holds exactly if one held before or this one began to, and
UART_TX_BYTE is still not enabled. -/
def Obligations.UartTxByteHoldsWhileDisabled : Prop :=
  (∀ (s : State) (u : UartState), s.block.adapter = .uart u →
    (u.mode = .unconfigured ∨ s.block.txQueue = [] ∨
      ∃ c, u.mode = .configured c ∧ c.flow = .ctsRts ∧ u.ctsIn = false) →
    exec .uartTxByte s = .next { s with result := .held, stepIndex := s.stepIndex + 1, lineHeld := true }) ∧
  (∀ (i : Instr) (s t : State), LineInv s → exec i s = .next t →
    (t.lineHeld = true ↔ (s.lineHeld = true ∨ t.result = .held) ∧ t.txEnabled = false))

/-- 41 R185: lost while UNCONFIGURED, stored while there is room, else lost and counted. -/
def Obligations.UartRxByteStoresOrCounts : Prop :=
  ∀ (s : State) (u : UartState) (x : Byte), s.block.adapter = .uart u →
    (u.mode = .unconfigured →
      exec (.uartRxByte x) s = .next { s with result := .noResult, stepIndex := s.stepIndex + 1 }) ∧
    (∀ c, u.mode = .configured c → u.rxFifo.length < c.urxf →
      exec (.uartRxByte x) s = .next
        { s with
          block := { s.block with adapter := .uart { u with rxFifo := u.rxFifo ++ [x] } }
          result := .noResult, stepIndex := s.stepIndex + 1 }) ∧
    (∀ c, u.mode = .configured c → ¬ u.rxFifo.length < c.urxf →
      exec (.uartRxByte x) s = .next
        { s with
          block := { s.block with cntRxOverrun := s.block.cntRxOverrun + 1 }
          result := .noResult, stepIndex := s.stepIndex + 1 })

/-- 41 R186: the mirror follows the pin in every mode. Whether a UART_TX_BYTE line still holds (`v`) is the run's own,
said by UartTxByteHoldsWhileDisabled. -/
def Obligations.UartCtsSetMirrorsThePin : Prop :=
  ∀ (s : State) (u : UartState) (level : Bool), s.block.adapter = .uart u →
    ∃ v, exec (.uartCtsSet level) s = .next
      { s with
        block := { s.block with adapter := .uart { u with ctsIn := level } }
        result := .noResult, stepIndex := s.stepIndex + 1, lineHeld := v }

/-- 41 R188 with 10 R37: with CTS/RTS a byte delivered while `rts_out` is asserted is stored, and one delivered while it
is not is lost and counted. -/
def Obligations.RtsPromisesRoomForAByte : Prop :=
  ∀ (s : State) (u : UartState) (c : UartCfg) (x : Byte), s.block.adapter = .uart u → u.mode = .configured c →
    c.flow = .ctsRts →
    ∃ t u', exec (.uartRxByte x) s = .next t ∧ t.block.adapter = .uart u' ∧
      (rtsOut u = true → u'.rxFifo = u.rxFifo ++ [x] ∧ t.block.cntRxOverrun = s.block.cntRxOverrun) ∧
      (rtsOut u = false → u'.rxFifo = u.rxFifo ∧ t.block.cntRxOverrun = s.block.cntRxOverrun + 1)

/-- The spec's own inferences 20 R78(a) and 41 R189: but for RESET, no operation loses, repeats or reorders a byte a
UART instance owes its wire; what was sent and what is queued grow by exactly the frames UART_TRY_SEND accepts. -/
def Obligations.UartStreamIsConserved : Prop :=
  ∀ (i : Instr) (s t : State) (u : UartState), MachineInv s → exec i s = .next t → i ≠ .reset → s.block.adapter = .uart u →
    ∃ u', t.block.adapter = .uart u' ∧ txStream t.block u' = txStream s.block u ++ acceptedBytes i t.result

/-- 41 R191, with the inference R189: in every endless run without RESET in which TXE is weakly fair, with flow control
off or CTS kept asserted, everything the block owes its wire is at last sent, in order. Weak fairness is read as log 12
says: an operation enabled from some point on is taken at some later point. -/
def Obligations.FairRunsSendEveryAcceptedFrame : Prop :=
  ∀ (σ : Nat → State) (μ : Nat → Instr) (n : Nat) (u : UartState) (c : UartCfg), EndlessRun σ μ → TxeFair σ μ →
    MachineInv (σ n) → (σ n).block.adapter = .uart u → u.mode = .configured c →
    (c.flow = .none ∨ ∀ m, n ≤ m → ∃ v, (σ m).block.adapter = .uart v ∧ v.ctsIn = true) →
    (∀ m, n ≤ m → μ m ≠ .reset) →
    ∃ m u', n ≤ m ∧ (σ m).block.adapter = .uart u' ∧ txStream (σ n).block u <+: u'.wireTx

/-- 30 R106, UART_TX_DRAIN: with flow control off or CTS asserted it sends everything the block owes its wire and empties
the queue. -/
def Obligations.DrainSendsEverything : Prop :=
  ∀ (s : State) (u : UartState) (c : UartCfg), MachineInv s → s.block.adapter = .uart u → u.mode = .configured c →
    c.flow = .none ∨ u.ctsIn = true →
    ∃ t u' rs, runPseudo .uartTxDrain s = .next (t, rs) ∧ t.block.adapter = .uart u' ∧ t.block.txQueue = [] ∧
      u'.wireTx = txStream s.block u ∧ rs = (s.block.txQueue.flatten.drop u.txPos).map .byteSent

/-! ## The SPI adapter (42) -/

/-- 42 R221 with R222: the frame is queued, and T_TXAV is emitted at a rising edge of the level. -/
def Obligations.SpiTrySendResult : Prop :=
  (∀ (s : State) (p : SpiState) (f : List Byte), s.block.adapter = .spi p → p.mode = .unconfigured →
    exec (.spiTrySend f) s = .fault (.notConfigured s.stepIndex)) ∧
  (∀ (s : State) (p : SpiState) (c : SpiCfg) (f : List Byte), s.block.adapter = .spi p → p.mode = .configured c →
    (f.length = 0 ∨ f.length > 8 + c.common.maxPayload →
      exec (.spiTrySend f) s = .fault (.badFrameLen s.stepIndex)) ∧
    (1 ≤ f.length → f.length ≤ 8 + c.common.maxPayload → s.block.txQueue.length = c.common.txq →
      exec (.spiTrySend f) s = .next { s with result := .busy, stepIndex := s.stepIndex + 1 }) ∧
    (1 ≤ f.length → f.length ≤ 8 + c.common.maxPayload → s.block.txQueue.length ≠ c.common.txq →
      exec (.spiTrySend f) s = .next
        { s with
          block :=
            { s.block with
              txQueue := s.block.txQueue ++ [f]
              adapter := .spi
                { p with
                  txAvailOut := !p.csIn
                  trigOut := if p.csIn = false ∧ p.txAvailOut = false then p.trigOut ++ [c.tTxav] else p.trigOut } }
          result := .sent, stepIndex := s.stepIndex + 1 }))

/-- 42 R223: the oldest transaction. -/
def Obligations.SpiPollResult : Prop :=
  (∀ (s : State) (p : SpiState), s.block.adapter = .spi p → p.mode = .unconfigured →
    exec .spiPoll s = .fault (.notConfigured s.stepIndex)) ∧
  (∀ (s : State) (p : SpiState) (c : SpiCfg), s.block.adapter = .spi p → p.mode = .configured c →
    (p.rxQueue = [] → exec .spiPoll s = .next { s with result := .pollNone, stepIndex := s.stepIndex + 1 }) ∧
    (∀ d q, p.rxQueue = d :: q →
      exec .spiPoll s = .next
        { s with
          block := { s.block with adapter := .spi { p with rxQueue := q } }
          result := .bytes d, stepIndex := s.stepIndex + 1 }))

/-- 42 R224 and R225: the start of a transaction, a second assertion, and a selection while UNCONFIGURED. -/
def Obligations.SpiCsAssertStartsATransaction : Prop :=
  ∀ (s : State) (p : SpiState), s.block.adapter = .spi p →
    (p.csIn = true → exec .spiCsAssert s = .next { s with result := .noResult, stepIndex := s.stepIndex + 1 }) ∧
    (p.csIn = false → p.mode = .unconfigured →
      exec .spiCsAssert s = .next
        { s with
          block := { s.block with adapter := .spi { p with csIn := true } }
          result := .noResult, stepIndex := s.stepIndex + 1 }) ∧
    (∀ c, p.csIn = false → p.mode = .configured c →
      exec .spiCsAssert s = .next
        { s with
          block :=
            { s.block with
              adapter := .spi
                { p with
                  csIn := true, xferActive := true, xferPos := 0, rxCur := [], doneSent := false
                  txLoaded := decide (s.block.txQueue ≠ []), txAvailOut := false, trigOut := p.trigOut ++ [c.tCsa] } }
          result := .noResult, stepIndex := s.stepIndex + 1 })

/-- 42 R226: one full-duplex byte; `f` is the frame at the head of the queue. -/
def Obligations.SpiXferExchangesAByte : Prop :=
  ∀ (s : State) (p : SpiState) (c : SpiCfg) (m : Byte) (f : List Byte), s.block.adapter = .spi p →
    p.mode = .configured c → p.xferActive = true → f = s.block.txQueue.headD [] →
    exec (.spiXfer m) s = .next
      { s with
        block :=
          { s.block with
            adapter := .spi
              { p with
                rxCur := if p.rxCur.length < 8 + c.common.maxPayload then p.rxCur ++ [m] else p.rxCur
                cntRxClipped :=
                  if p.rxCur.length < 8 + c.common.maxPayload then p.cntRxClipped else p.cntRxClipped + 1
                xferPos := p.xferPos + 1
                doneSent := p.doneSent || (p.txLoaded && decide (p.xferPos + 1 = f.length))
                trigOut :=
                  if p.txLoaded = true ∧ p.doneSent = false ∧ p.xferPos + 1 = f.length then p.trigOut ++ [c.tDone]
                  else p.trigOut } }
        result := .miso (if p.txLoaded = true ∧ p.xferPos < f.length then f.getD p.xferPos 0 else 0)
        stepIndex := s.stepIndex + 1 }

/-- 42 R227: outside a transaction the block takes no part; the byte the host samples is a free draw, of which nothing
is said (log 7). -/
def Obligations.SpiXferUndrivenOutsideATransaction : Prop :=
  ∀ (s : State) (p : SpiState) (m : Byte), s.block.adapter = .spi p → p.xferActive = false →
    ∃ sampled, exec (.spiXfer m) s = .next { s with result := .undriven sampled, stepIndex := s.stepIndex + 1 }

/-- 42 R229 with R222 and R230: the end of a transaction; `f` is the frame at the head of the queue. -/
def Obligations.SpiCsDeassertEndsATransaction : Prop :=
  ∀ (s : State) (p : SpiState) (c : SpiCfg) (f : List Byte) (sentAll cut idle full : Bool) (q : List (List Byte)),
    s.block.adapter = .spi p → p.mode = .configured c → p.csIn = true → p.xferActive = true →
    f = s.block.txQueue.headD [] →
    sentAll = (p.txLoaded && decide (f.length ≤ p.xferPos)) → cut = (p.txLoaded && decide (p.xferPos < f.length)) →
    idle = decide (∀ x ∈ p.rxCur, x = 0) → full = decide (p.rxQueue.length = c.common.rxq) →
    q = (if sentAll then s.block.txQueue.tail else s.block.txQueue) →
    exec .spiCsDeassert s = .next
      { s with
        block :=
          { s.block with
            txQueue := q
            cntTxFrames := if sentAll then s.block.cntTxFrames + 1 else s.block.cntTxFrames
            cntRxOverrun := if !idle && full then s.block.cntRxOverrun + 1 else s.block.cntRxOverrun
            adapter := .spi
              { p with
                csIn := false, xferActive := false, txLoaded := false, xferPos := 0, rxCur := [], doneSent := false
                rxQueue := if !idle && !full then p.rxQueue ++ [p.rxCur] else p.rxQueue
                cntTxTruncated := if cut then p.cntTxTruncated + 1 else p.cntTxTruncated
                cntRxIdle := if idle then p.cntRxIdle + 1 else p.cntRxIdle
                txAvailOut := decide (q ≠ [])
                trigOut :=
                  if q ≠ [] ∧ p.txAvailOut = false then p.trigOut ++ [c.tCsd, c.tTxav] else p.trigOut ++ [c.tCsd] } }
        result := .noResult, stepIndex := s.stepIndex + 1 }

/-- 42 R231, with R222: a release without a transaction. -/
def Obligations.SpiCsDeassertOutsideATransaction : Prop :=
  ∀ (s : State) (p : SpiState), s.block.adapter = .spi p →
    (p.csIn = false → exec .spiCsDeassert s = .next { s with result := .noResult, stepIndex := s.stepIndex + 1 }) ∧
    (p.csIn = true → p.xferActive = false → p.mode = .unconfigured →
      exec .spiCsDeassert s = .next
        { s with
          block := { s.block with adapter := .spi { p with csIn := false } }
          result := .noResult, stepIndex := s.stepIndex + 1 }) ∧
    (∀ c, p.csIn = true → p.xferActive = false → p.mode = .configured c →
      exec .spiCsDeassert s = .next
        { s with
          block :=
            { s.block with
              adapter := .spi
                { p with
                  csIn := false, txAvailOut := decide (s.block.txQueue ≠ [])
                  trigOut :=
                    if s.block.txQueue ≠ [] ∧ p.txAvailOut = false then p.trigOut ++ [c.tTxav] else p.trigOut } }
          result := .noResult, stepIndex := s.stepIndex + 1 })

/-- The spec's own inference 42 R232: a frame SPI_TRY_SEND accepted leaves the queue only at the end of a transaction
that clocked all of it, or at RESET; a frame enters only at the back. -/
def Obligations.SpiFramesAreNotLost : Prop :=
  ∀ (i : Instr) (s t : State) (p : SpiState), MachineInv s → exec i s = .next t → i ≠ .reset → s.block.adapter = .spi p →
    t.block.txQueue = s.block.txQueue ∨
    (∃ f, i = .spiTrySend f ∧ t.result = .sent ∧ t.block.txQueue = s.block.txQueue ++ [f]) ∨
    (i = .spiCsDeassert ∧ p.xferActive = true ∧ p.txLoaded = true ∧
      ∃ f, s.block.txQueue = f :: t.block.txQueue ∧ f.length ≤ p.xferPos)

/-- 42 R226's note and 70 R327: the frame a transaction drives stays the head of the queue, loaded, until the release
or RESET. -/
def Obligations.LoadedFrameIsFixed : Prop :=
  ∀ (i : Instr) (s t : State) (p : SpiState), MachineInv s → exec i s = .next t → i ≠ .reset → i ≠ .spiCsDeassert →
    s.block.adapter = .spi p → p.xferActive = true →
    ∃ p', t.block.adapter = .spi p' ∧ p'.xferActive = true ∧ p'.txLoaded = p.txLoaded ∧
      (p.txLoaded = true → t.block.txQueue.head? = s.block.txQueue.head?)

/-- The spec's own summary 42 R234, with R222 and R228: each operation emits T_TXAV exactly at a rising edge of
`tx_avail_out`, T_CSA at the start of a transaction, T_CSD at its end, and T_DONE at the byte that completes the
loaded frame. -/
def Obligations.TriggersMarkTheirEvents : Prop :=
  ∀ (i : Instr) (s t : State) (p : SpiState) (c : SpiCfg), MachineInv s → exec i s = .next t → i ≠ .reset →
    s.block.adapter = .spi p → p.mode = .configured c →
    ∃ p' new, t.block.adapter = .spi p' ∧ p'.trigOut = p.trigOut ++ new ∧
      new.count c.tTxav = (if p.txAvailOut = false ∧ p'.txAvailOut = true then 1 else 0) ∧
      new.count c.tCsa = (if p.xferActive = false ∧ p'.xferActive = true then 1 else 0) ∧
      new.count c.tCsd = (if p.xferActive = true ∧ p'.xferActive = false then 1 else 0) ∧
      new.count c.tDone = (if p.doneSent = false ∧ p'.doneSent = true then 1 else 0)

/-- 42 R224 to R230, end to end: on a deselected block with a frame waiting, a transaction of at least as many bytes
drives the frame and then FILL on MISO and retires it; a shorter one drives its first bytes and keeps it. -/
def Obligations.TransactionDrivesTheLoadedFrame : Prop :=
  ∀ (s : State) (p : SpiState) (c : SpiCfg) (f : List Byte) (q : List (List Byte)) (ms : List Byte), MachineInv s →
    s.block.adapter = .spi p → p.mode = .configured c → p.csIn = false → s.block.txQueue = f :: q →
    ∃ t p', runPseudo (.spiTransaction ms) s = .next (t,
        (f.take ms.length ++ List.replicate (ms.length - f.length) 0).map .miso) ∧
      t.block.adapter = .spi p' ∧ p'.csIn = false ∧
      (f.length ≤ ms.length →
        t.block.txQueue = q ∧ t.block.cntTxFrames = s.block.cntTxFrames + 1 ∧
          p'.cntTxTruncated = p.cntTxTruncated) ∧
      (ms.length < f.length →
        t.block.txQueue = f :: q ∧ t.block.cntTxFrames = s.block.cntTxFrames ∧
          p'.cntTxTruncated = p.cntTxTruncated + 1)

/-! ## The whole machine -/

/-- The invariant holds at power-on, on either variant, and right after reset (the one instance log 4 names); so does
that of a line that holds (log 6). -/
def Obligations.InvariantHoldsAtPowerOn : Prop :=
  (∀ (v : Variant) (n : Nat), 0 < n → MachineInv (State.powerOn v n)) ∧ MachineInv State.reset ∧
    (∀ (v : Variant) (n : Nat), LineInv (State.powerOn v n)) ∧ LineInv State.reset

/-- Every step keeps the invariant: the capacities, ranges and "always holds" sentences of 10_state. Every step also keeps
that of a line that holds, the model's own (log 6). -/
def Obligations.EveryStepKeepsTheInvariant : Prop :=
  (∀ s t : State, MachineInv s → step s = .next t → MachineInv t) ∧
  (∀ (i : Instr) (s t : State), MachineInv s → exec i s = .next t → MachineInv t) ∧
  (∀ s t : State, LineInv s → step s = .next t → LineInv t)

/-- 60 R294, in the order the pseudocode of 41 R181 and 42 R221 checks: an operation faults exactly when, and as, the
table says, and the fault names its step (R293); a reserved code is refused and is no fault. -/
def Obligations.FaultsAreExactlyTheTable : Prop :=
  (∀ (i : Instr) (s : State) (f : Fault), exec i s = .fault f ↔
    (f = .wrongVariant s.stepIndex ∧ ¬ onVariant i s.block) ∨
    (f = .notConfigured s.stepIndex ∧ onVariant i s.block ∧ needsSetup i = true ∧ s.block.common? = none) ∨
    (f = .badFrameLen s.stepIndex ∧ onVariant i s.block ∧ ∃ c, s.block.common? = some c ∧ badLength i c)) ∧
  (∀ (s : State) (code : Byte) (bs : List Byte) (f : Fault), code ∉ listedCodes → s.script = code :: bs →
    step s ≠ .fault f ∧ ∃ r, step s = .refused r)

/-- 60 R291: each operation returns one of its own results, and `held` only where UART_TX_BYTE has no step (log 6). -/
def Obligations.ResultsAreTheOperationsOwn : Prop :=
  ∀ (i : Instr) (s t : State), exec i s = .next t → mayReturn i t.result = true ∧
    (t.result = .held ↔ i = .uartTxByte ∧ s.txEnabled = false)

/-- 10 R41: both traces are empty at power-on, no operation removes from them, and RESET and SETUP leave them. -/
def Obligations.TracesOnlyGrow : Prop :=
  (∀ n, (∃ u, (State.powerOn .uart n).block.adapter = .uart u ∧ u.wireTx = []) ∧
    ∃ p, (State.powerOn .spi n).block.adapter = .spi p ∧ p.trigOut = []) ∧
  (∀ (i : Instr) (s t : State), exec i s = .next t →
    (∀ u, s.block.adapter = .uart u → ∃ u' new, t.block.adapter = .uart u' ∧ u'.wireTx = u.wireTx ++ new ∧
      (i ≠ .uartTxByte → new = [])) ∧
    (∀ p, s.block.adapter = .spi p → ∃ p' new, t.block.adapter = .spi p' ∧ p'.trigOut = p.trigOut ++ new ∧
      (i = .reset ∨ (∃ c, i = .setup c) → new = [])))

/-- 10 R23 and R24: UNCONFIGURED, without a record, at power-on; only a SETUP that succeeds configures, only RESET
unconfigures, and the record is there exactly while CONFIGURED and never changes in between. -/
def Obligations.ModeMovesOnlyBySetupAndReset : Prop :=
  (∀ v n, (State.powerOn v n).block.modeName = .unconfigured ∧ statusCfg (State.powerOn v n).block.adapter = .none) ∧
  (∀ s : State, s.block.modeName = .unconfigured ↔ statusCfg s.block.adapter = .none) ∧
  (∀ (i : Instr) (s t : State), exec i s = .next t →
    (s.block.modeName = .unconfigured → t.block.modeName = .configured → ∃ c, i = .setup c ∧ t.result = .cfgOk) ∧
    (s.block.modeName = .configured → t.block.modeName = .unconfigured → i = .reset) ∧
    (s.block.modeName = .configured → t.block.modeName = .configured →
      statusCfg t.block.adapter = statusCfg s.block.adapter))

/-- 00 R3: the variant (and TRIG_NS, R8) is fixed before reset, and no operation changes it. -/
def Obligations.InstanceParametersNeverChange : Prop :=
  (∀ v n, (State.powerOn v n).block.variant = v ∧ (State.powerOn v n).block.trigNs = n) ∧
  (∀ (i : Instr) (s t : State), exec i s = .next t →
    t.block.variant = s.block.variant ∧ t.block.trigNs = s.block.trigNs)

/-- 10 R35 and R36: the input mirrors are false at power-on and written only by their own operations. -/
def Obligations.MirrorsFollowOnlyTheirPins : Prop :=
  UartState.powerOn.ctsIn = false ∧ SpiState.powerOn.csIn = false ∧
  (∀ (i : Instr) (s t : State) (u : UartState), exec i s = .next t → s.block.adapter = .uart u →
    ∃ u', t.block.adapter = .uart u' ∧ ((∀ v, i ≠ .uartCtsSet v) → u'.ctsIn = u.ctsIn) ∧
      (∀ v, i = .uartCtsSet v → u'.ctsIn = v)) ∧
  (∀ (i : Instr) (s t : State) (p : SpiState), exec i s = .next t → s.block.adapter = .spi p →
    ∃ p', t.block.adapter = .spi p' ∧ (i ≠ .spiCsAssert → i ≠ .spiCsDeassert → p'.csIn = p.csIn) ∧
      (i = .spiCsAssert → p'.csIn = true) ∧ (i = .spiCsDeassert → p'.csIn = false))

/-- 20 R75: the pure operations leave the block as it was, DEC_BYTE and DECODE_UART write DEC alone, two READ_STATUS
in a row agree, and a second UART_POLL finds nothing. -/
def Obligations.ReadsWriteOnlyWhatTheyMay : Prop :=
  (∀ (i : Instr) (s t : State), exec i s = .next t →
    (i = .readStatus ∨ (∃ d, i = .crc16 d) ∨ (∃ h p, i = .encodeUart h p) ∨ (∃ h p, i = .encodeSpi h p) ∨
      (∃ d, i = .decodeSpi d) → t.block = s.block) ∧
    ((∃ x, i = .decByte x) ∨ (∃ d, i = .decodeUart d) → t.block = { s.block with dec := t.block.dec })) ∧
  (∀ s t t' : State, exec .readStatus s = .next t → exec .readStatus t = .next t' → t'.result = t.result) ∧
  (∀ s t t' : State, exec .uartPoll s = .next t → exec .uartPoll t = .next t' → t'.result = .pollNone)

/-- 10 R40: a counter moves by one, modulo 2^32, only at the operations named for it, and SETUP (when it succeeds) and
RESET clear it. -/
def Obligations.CountersMoveOnlyByTheirEvents : Prop :=
  (∀ (i : Instr) (s t : State), exec i s = .next t → i ≠ .reset → t.result ≠ .cfgOk →
    (t.block.cntTxFrames ≠ s.block.cntTxFrames → (i = .uartTxByte ∨ i = .spiCsDeassert) ∧
      t.block.cntTxFrames.toNat = (s.block.cntTxFrames.toNat + 1) % 2 ^ 32) ∧
    (t.block.cntRxOverrun ≠ s.block.cntRxOverrun → ((∃ x, i = .uartRxByte x) ∨ i = .spiCsDeassert) ∧
      t.block.cntRxOverrun.toNat = (s.block.cntRxOverrun.toNat + 1) % 2 ^ 32) ∧
    (∀ p, s.block.adapter = .spi p → ∃ p', t.block.adapter = .spi p' ∧
      (p'.cntTxTruncated ≠ p.cntTxTruncated → i = .spiCsDeassert ∧
        p'.cntTxTruncated.toNat = (p.cntTxTruncated.toNat + 1) % 2 ^ 32) ∧
      (p'.cntRxIdle ≠ p.cntRxIdle → i = .spiCsDeassert ∧
        p'.cntRxIdle.toNat = (p.cntRxIdle.toNat + 1) % 2 ^ 32) ∧
      (p'.cntRxClipped ≠ p.cntRxClipped → (∃ m, i = .spiXfer m) ∧
        p'.cntRxClipped.toNat = (p.cntRxClipped.toNat + 1) % 2 ^ 32))) ∧
  (∀ (i : Instr) (s t : State), exec i s = .next t → i = .reset ∨ t.result = .cfgOk →
    t.block.cntTxFrames = 0 ∧ t.block.cntRxOverrun = 0 ∧
    ∀ p, t.block.adapter = .spi p → p.cntTxTruncated = 0 ∧ p.cntRxIdle = 0 ∧ p.cntRxClipped = 0)

/-- 10 R39: DEC is written by DEC_BYTE and DECODE_UART, cleared by a SETUP that succeeds and by RESET, and by nothing
else. -/
def Obligations.DecoderIsWrittenOnlyByItsOperations : Prop :=
  ∀ (i : Instr) (s t : State), exec i s = .next t →
    (t.block.dec ≠ s.block.dec →
      (∃ x, i = .decByte x) ∨ (∃ d, i = .decodeUart d) ∨ i = .reset ∨ t.result = .cfgOk) ∧
    (i = .reset ∨ t.result = .cfgOk → t.block.dec = ⟨[], false, .none⟩)

/-- 60 R300 and the availability of 60 R302: an operation that exists on the variant, of a CONFIGURED block, with a frame
length in range, always completes: no data value and no state ends the run. Two cases rest on the model's choices: while
UART_TX_BYTE is not enabled R183 gives TXE no step, and completing with `held` is the model's choice (log 6); and SETUP
with a record of the other variant answers CFG_LOCKED by log 8. -/
def Obligations.ConfiguredOperationsAlwaysComplete : Prop :=
  ∀ (i : Instr) (s : State) (c : CommonCfg), s.block.common? = some c → onVariant i s.block → ¬ badLength i c →
    ∃ t, exec i s = .next t
end

