-- ==== Sys2Proof/Laws/State.lean ====
section
/-! SUPPORT. One lemma per field per named update of the state, so that no proof unfolds one. -/

namespace Sys2Proof.Machine

/-! ## State.finish -/

@[simp] theorem State.finish_block (s : State) (b : Block) (r : Result) : (s.finish b r).block = b := rfl
@[simp] theorem State.finish_script (s : State) (b : Block) (r : Result) : (s.finish b r).script = s.script := rfl
@[simp] theorem State.finish_result (s : State) (b : Block) (r : Result) : (s.finish b r).result = r := rfl
@[simp] theorem State.finish_stepIndex (s : State) (b : Block) (r : Result) : (s.finish b r).stepIndex = s.stepIndex + 1 := rfl
@[simp] theorem State.finish_lineHeld (s : State) (b : Block) (r : Result) : (s.finish b r).lineHeld = s.lineHeld := rfl

/-! ## State.setHeld -/

@[simp] theorem State.setHeld_block (s : State) (v : Bool) : (s.setHeld v).block = s.block := rfl
@[simp] theorem State.setHeld_script (s : State) (v : Bool) : (s.setHeld v).script = s.script := rfl
@[simp] theorem State.setHeld_result (s : State) (v : Bool) : (s.setHeld v).result = s.result := rfl
@[simp] theorem State.setHeld_stepIndex (s : State) (v : Bool) : (s.setHeld v).stepIndex = s.stepIndex := rfl
@[simp] theorem State.setHeld_lineHeld (s : State) (v : Bool) : (s.setHeld v).lineHeld = v := rfl

/-! ## State.releaseLine -/

@[simp] theorem State.releaseLine_block (s : State) : s.releaseLine.block = s.block := rfl
@[simp] theorem State.releaseLine_script (s : State) : s.releaseLine.script = s.script := rfl
@[simp] theorem State.releaseLine_result (s : State) : s.releaseLine.result = s.result := rfl
@[simp] theorem State.releaseLine_stepIndex (s : State) : s.releaseLine.stepIndex = s.stepIndex := rfl
@[simp] theorem State.releaseLine_lineHeld (s : State) : s.releaseLine.lineHeld = (s.lineHeld && !s.txEnabled) := rfl

/-! ## State.setScript -/

@[simp] theorem State.setScript_block (s : State) (bs : List Byte) : (s.setScript bs).block = s.block := rfl
@[simp] theorem State.setScript_script (s : State) (bs : List Byte) : (s.setScript bs).script = bs := rfl
@[simp] theorem State.setScript_result (s : State) (bs : List Byte) : (s.setScript bs).result = s.result := rfl
@[simp] theorem State.setScript_stepIndex (s : State) (bs : List Byte) : (s.setScript bs).stepIndex = s.stepIndex := rfl
@[simp] theorem State.setScript_lineHeld (s : State) (bs : List Byte) : (s.setScript bs).lineHeld = s.lineHeld := rfl

/-! ## Block.setUart -/

@[simp] theorem Block.setUart_trigNs (b : Block) (u : UartState) : (b.setUart u).trigNs = b.trigNs := rfl
@[simp] theorem Block.setUart_adapter (b : Block) (u : UartState) : (b.setUart u).adapter = .uart u := rfl
@[simp] theorem Block.setUart_txQueue (b : Block) (u : UartState) : (b.setUart u).txQueue = b.txQueue := rfl
@[simp] theorem Block.setUart_dec (b : Block) (u : UartState) : (b.setUart u).dec = b.dec := rfl
@[simp] theorem Block.setUart_cntTxFrames (b : Block) (u : UartState) : (b.setUart u).cntTxFrames = b.cntTxFrames := rfl
@[simp] theorem Block.setUart_cntRxOverrun (b : Block) (u : UartState) : (b.setUart u).cntRxOverrun = b.cntRxOverrun := rfl

/-! ## Block.setSpi -/

@[simp] theorem Block.setSpi_trigNs (b : Block) (p : SpiState) : (b.setSpi p).trigNs = b.trigNs := rfl
@[simp] theorem Block.setSpi_adapter (b : Block) (p : SpiState) : (b.setSpi p).adapter = .spi p := rfl
@[simp] theorem Block.setSpi_txQueue (b : Block) (p : SpiState) : (b.setSpi p).txQueue = b.txQueue := rfl
@[simp] theorem Block.setSpi_dec (b : Block) (p : SpiState) : (b.setSpi p).dec = b.dec := rfl
@[simp] theorem Block.setSpi_cntTxFrames (b : Block) (p : SpiState) : (b.setSpi p).cntTxFrames = b.cntTxFrames := rfl
@[simp] theorem Block.setSpi_cntRxOverrun (b : Block) (p : SpiState) : (b.setSpi p).cntRxOverrun = b.cntRxOverrun := rfl

/-! ## Block.setTxQueue -/

@[simp] theorem Block.setTxQueue_trigNs (b : Block) (q : List (List Byte)) : (b.setTxQueue q).trigNs = b.trigNs := rfl
@[simp] theorem Block.setTxQueue_adapter (b : Block) (q : List (List Byte)) : (b.setTxQueue q).adapter = b.adapter := rfl
@[simp] theorem Block.setTxQueue_txQueue (b : Block) (q : List (List Byte)) : (b.setTxQueue q).txQueue = q := rfl
@[simp] theorem Block.setTxQueue_dec (b : Block) (q : List (List Byte)) : (b.setTxQueue q).dec = b.dec := rfl
@[simp] theorem Block.setTxQueue_cntTxFrames (b : Block) (q : List (List Byte)) : (b.setTxQueue q).cntTxFrames = b.cntTxFrames := rfl
@[simp] theorem Block.setTxQueue_cntRxOverrun (b : Block) (q : List (List Byte)) : (b.setTxQueue q).cntRxOverrun = b.cntRxOverrun := rfl

/-! ## Block.setDec -/

@[simp] theorem Block.setDec_trigNs (b : Block) (d : Dec) : (b.setDec d).trigNs = b.trigNs := rfl
@[simp] theorem Block.setDec_adapter (b : Block) (d : Dec) : (b.setDec d).adapter = b.adapter := rfl
@[simp] theorem Block.setDec_txQueue (b : Block) (d : Dec) : (b.setDec d).txQueue = b.txQueue := rfl
@[simp] theorem Block.setDec_dec (b : Block) (d : Dec) : (b.setDec d).dec = d := rfl
@[simp] theorem Block.setDec_cntTxFrames (b : Block) (d : Dec) : (b.setDec d).cntTxFrames = b.cntTxFrames := rfl
@[simp] theorem Block.setDec_cntRxOverrun (b : Block) (d : Dec) : (b.setDec d).cntRxOverrun = b.cntRxOverrun := rfl

@[simp] theorem Block.setDec_txEnabled (b : Block) (d : Dec) : (b.setDec d).txEnabled = b.txEnabled := rfl

/-! ## Block.cleared: what SETUP and RESET leave of the common state (43 R262, R263) -/

@[simp] theorem Block.cleared_trigNs (b : Block) (a : Adapter) : (b.cleared a).trigNs = b.trigNs := rfl
@[simp] theorem Block.cleared_adapter (b : Block) (a : Adapter) : (b.cleared a).adapter = a := rfl
@[simp] theorem Block.cleared_txQueue (b : Block) (a : Adapter) : (b.cleared a).txQueue = [] := rfl
@[simp] theorem Block.cleared_dec (b : Block) (a : Adapter) : (b.cleared a).dec = Dec.init := rfl
@[simp] theorem Block.cleared_cntTxFrames (b : Block) (a : Adapter) : (b.cleared a).cntTxFrames = 0 := rfl
@[simp] theorem Block.cleared_cntRxOverrun (b : Block) (a : Adapter) : (b.cleared a).cntRxOverrun = 0 := rfl

/-! ## UartState.cleared -/

@[simp] theorem UartState.cleared_mode (u : UartState) (m : Mode UartCfg) : (u.cleared m).mode = m := rfl
@[simp] theorem UartState.cleared_txPos (u : UartState) (m : Mode UartCfg) : (u.cleared m).txPos = 0 := rfl
@[simp] theorem UartState.cleared_rxFifo (u : UartState) (m : Mode UartCfg) : (u.cleared m).rxFifo = [] := rfl
@[simp] theorem UartState.cleared_ctsIn (u : UartState) (m : Mode UartCfg) : (u.cleared m).ctsIn = u.ctsIn := rfl
@[simp] theorem UartState.cleared_wireTx (u : UartState) (m : Mode UartCfg) : (u.cleared m).wireTx = u.wireTx := rfl

/-! ## SpiState.cleared -/

@[simp] theorem SpiState.cleared_mode (p : SpiState) (m : Mode SpiCfg) : (p.cleared m).mode = m := rfl
@[simp] theorem SpiState.cleared_rxQueue (p : SpiState) (m : Mode SpiCfg) : (p.cleared m).rxQueue = [] := rfl
@[simp] theorem SpiState.cleared_rxCur (p : SpiState) (m : Mode SpiCfg) : (p.cleared m).rxCur = [] := rfl
@[simp] theorem SpiState.cleared_xferActive (p : SpiState) (m : Mode SpiCfg) : (p.cleared m).xferActive = false := rfl
@[simp] theorem SpiState.cleared_txLoaded (p : SpiState) (m : Mode SpiCfg) : (p.cleared m).txLoaded = false := rfl
@[simp] theorem SpiState.cleared_xferPos (p : SpiState) (m : Mode SpiCfg) : (p.cleared m).xferPos = 0 := rfl
@[simp] theorem SpiState.cleared_doneSent (p : SpiState) (m : Mode SpiCfg) : (p.cleared m).doneSent = false := rfl
@[simp] theorem SpiState.cleared_txAvailOut (p : SpiState) (m : Mode SpiCfg) : (p.cleared m).txAvailOut = false := rfl
@[simp] theorem SpiState.cleared_csIn (p : SpiState) (m : Mode SpiCfg) : (p.cleared m).csIn = p.csIn := rfl
@[simp] theorem SpiState.cleared_cntTxTruncated (p : SpiState) (m : Mode SpiCfg) : (p.cleared m).cntTxTruncated = 0 := rfl
@[simp] theorem SpiState.cleared_cntRxIdle (p : SpiState) (m : Mode SpiCfg) : (p.cleared m).cntRxIdle = 0 := rfl
@[simp] theorem SpiState.cleared_cntRxClipped (p : SpiState) (m : Mode SpiCfg) : (p.cleared m).cntRxClipped = 0 := rfl
@[simp] theorem SpiState.cleared_trigOut (p : SpiState) (m : Mode SpiCfg) : (p.cleared m).trigOut = p.trigOut := rfl

/-! ## emitWire -/

@[simp] theorem emitWire_mode (u : UartState) (b : Byte) : (emitWire u b).mode = u.mode := rfl
@[simp] theorem emitWire_txPos (u : UartState) (b : Byte) : (emitWire u b).txPos = u.txPos := rfl
@[simp] theorem emitWire_rxFifo (u : UartState) (b : Byte) : (emitWire u b).rxFifo = u.rxFifo := rfl
@[simp] theorem emitWire_ctsIn (u : UartState) (b : Byte) : (emitWire u b).ctsIn = u.ctsIn := rfl
@[simp] theorem emitWire_wireTx (u : UartState) (b : Byte) : (emitWire u b).wireTx = u.wireTx ++ [b] := rfl

/-! ## emitTrig -/

@[simp] theorem emitTrig_mode (p : SpiState) (t : Nat) : (emitTrig p t).mode = p.mode := rfl
@[simp] theorem emitTrig_rxQueue (p : SpiState) (t : Nat) : (emitTrig p t).rxQueue = p.rxQueue := rfl
@[simp] theorem emitTrig_rxCur (p : SpiState) (t : Nat) : (emitTrig p t).rxCur = p.rxCur := rfl
@[simp] theorem emitTrig_xferActive (p : SpiState) (t : Nat) : (emitTrig p t).xferActive = p.xferActive := rfl
@[simp] theorem emitTrig_txLoaded (p : SpiState) (t : Nat) : (emitTrig p t).txLoaded = p.txLoaded := rfl
@[simp] theorem emitTrig_xferPos (p : SpiState) (t : Nat) : (emitTrig p t).xferPos = p.xferPos := rfl
@[simp] theorem emitTrig_doneSent (p : SpiState) (t : Nat) : (emitTrig p t).doneSent = p.doneSent := rfl
@[simp] theorem emitTrig_txAvailOut (p : SpiState) (t : Nat) : (emitTrig p t).txAvailOut = p.txAvailOut := rfl
@[simp] theorem emitTrig_csIn (p : SpiState) (t : Nat) : (emitTrig p t).csIn = p.csIn := rfl
@[simp] theorem emitTrig_cntTxTruncated (p : SpiState) (t : Nat) : (emitTrig p t).cntTxTruncated = p.cntTxTruncated := rfl
@[simp] theorem emitTrig_cntRxIdle (p : SpiState) (t : Nat) : (emitTrig p t).cntRxIdle = p.cntRxIdle := rfl
@[simp] theorem emitTrig_cntRxClipped (p : SpiState) (t : Nat) : (emitTrig p t).cntRxClipped = p.cntRxClipped := rfl
@[simp] theorem emitTrig_trigOut (p : SpiState) (t : Nat) : (emitTrig p t).trigOut = p.trigOut ++ [t] := rfl

/-! ## updAvail: the level, and a trigger at its rising edge (42 R222) -/

@[simp] theorem updAvail_mode (c : SpiCfg) (q : List (List Byte)) (p : SpiState) : (updAvail c q p).mode = p.mode := rfl
@[simp] theorem updAvail_rxQueue (c : SpiCfg) (q : List (List Byte)) (p : SpiState) : (updAvail c q p).rxQueue = p.rxQueue := rfl
@[simp] theorem updAvail_rxCur (c : SpiCfg) (q : List (List Byte)) (p : SpiState) : (updAvail c q p).rxCur = p.rxCur := rfl
@[simp] theorem updAvail_xferActive (c : SpiCfg) (q : List (List Byte)) (p : SpiState) : (updAvail c q p).xferActive = p.xferActive := rfl
@[simp] theorem updAvail_txLoaded (c : SpiCfg) (q : List (List Byte)) (p : SpiState) : (updAvail c q p).txLoaded = p.txLoaded := rfl
@[simp] theorem updAvail_xferPos (c : SpiCfg) (q : List (List Byte)) (p : SpiState) : (updAvail c q p).xferPos = p.xferPos := rfl
@[simp] theorem updAvail_doneSent (c : SpiCfg) (q : List (List Byte)) (p : SpiState) : (updAvail c q p).doneSent = p.doneSent := rfl
@[simp] theorem updAvail_csIn (c : SpiCfg) (q : List (List Byte)) (p : SpiState) : (updAvail c q p).csIn = p.csIn := rfl
@[simp] theorem updAvail_cntTxTruncated (c : SpiCfg) (q : List (List Byte)) (p : SpiState) : (updAvail c q p).cntTxTruncated = p.cntTxTruncated := rfl
@[simp] theorem updAvail_cntRxIdle (c : SpiCfg) (q : List (List Byte)) (p : SpiState) : (updAvail c q p).cntRxIdle = p.cntRxIdle := rfl
@[simp] theorem updAvail_cntRxClipped (c : SpiCfg) (q : List (List Byte)) (p : SpiState) : (updAvail c q p).cntRxClipped = p.cntRxClipped := rfl
@[simp] theorem updAvail_txAvailOut (c : SpiCfg) (q : List (List Byte)) (p : SpiState) :
    (updAvail c q p).txAvailOut = availLevel q p := rfl
@[simp] theorem updAvail_trigOut (c : SpiCfg) (q : List (List Byte)) (p : SpiState) :
    (updAvail c q p).trigOut = p.trigOut ++ availTriggers c q p := rfl

end Sys2Proof.Machine
end

