-- ==== Sys2Proof/Laws/Ops.lean ====
section
/-! SUPPORT. What each shared operation can do, said once: a guard that answers a next state had what it guards, and
answers a fault only for the reason it names. -/

namespace Sys2Proof.Machine

@[simp] theorem done_eq_next {s t : State} {b : Block} {r : Result} : done s b r = .next t ↔ s.finish b r = t := by
  simp [done]

@[simp] theorem done_ne_fault {s : State} {b : Block} {r : Result} {f : Fault} : done s b r ≠ .fault f := by simp [done]

@[simp] theorem done_ne_refused {s : State} {b : Block} {r : Result} {f : Refusal} : done s b r ≠ .refused f := by
  simp [done]

theorem needUart_eq_next {s t : State} {k : UartState → Out} :
    needUart s k = .next t ↔ ∃ u, s.block.adapter = .uart u ∧ k u = .next t := by
  unfold needUart; cases s.block.adapter <;> simp

theorem needSpi_eq_next {s t : State} {k : SpiState → Out} :
    needSpi s k = .next t ↔ ∃ p, s.block.adapter = .spi p ∧ k p = .next t := by
  unfold needSpi; cases s.block.adapter <;> simp

theorem needCfg_eq_next {α : Type} {s t : State} {m : Mode α} {k : α → Out} :
    needCfg s m k = .next t ↔ ∃ c, m = .configured c ∧ k c = .next t := by
  unfold needCfg; cases m <;> simp

theorem needCommon_eq_next {s t : State} {k : CommonCfg → Out} :
    needCommon s k = .next t ↔ ∃ c, s.block.common? = some c ∧ k c = .next t := by
  unfold needCommon; cases s.block.common? <;> simp

theorem needFrameLen_eq_next {s t : State} {f : List Byte} {n : Nat} {k : Out} :
    needFrameLen s f n k = .next t ↔ (1 ≤ f.length ∧ f.length ≤ n) ∧ k = .next t := by
  unfold needFrameLen; split <;> simp <;> omega

theorem needUart_of {s : State} {u : UartState} (h : s.block.adapter = .uart u) (k : UartState → Out) :
    needUart s k = k u := by simp [needUart, h]

theorem needSpi_of {s : State} {p : SpiState} (h : s.block.adapter = .spi p) (k : SpiState → Out) :
    needSpi s k = k p := by simp [needSpi, h]

@[simp] theorem needCfg_configured {α : Type} (s : State) (c : α) (k : α → Out) :
    needCfg s (.configured c) k = k c := rfl

@[simp] theorem needCfg_unconfigured {α : Type} (s : State) (k : α → Out) :
    needCfg s .unconfigured k = .fault (.notConfigured s.stepIndex) := rfl

theorem needCommon_of {s : State} {c : CommonCfg} (h : s.block.common? = some c) (k : CommonCfg → Out) :
    needCommon s k = k c := by simp [needCommon, h]

theorem needFrameLen_of {s : State} {f : List Byte} {n : Nat} (h : 1 ≤ f.length) (h' : f.length ≤ n) (k : Out) :
    needFrameLen s f n k = k := by
  unfold needFrameLen; rw [if_neg (by omega)]

/-! ## Queues -/

@[simp] theorem enq_length {α : Type} (q : List α) (x : α) : (enq q x).length = q.length + 1 := by simp [enq]

@[simp] theorem headFrame_cons (f : List Byte) (q : List (List Byte)) : headFrame (f :: q) = f := rfl

@[simp] theorem headFrame_nil : headFrame [] = [] := rfl

@[simp] theorem deq_cons {α : Type} (x : α) (q : List α) : deq (x :: q) = q := rfl

theorem headFrame_enq {q : List (List Byte)} (h : q ≠ []) (f : List Byte) : headFrame (enq q f) = headFrame q := by
  cases q with
  | nil => exact absurd rfl h
  | cons g q => rfl

/-! ## The configuration a block holds -/

@[simp] theorem cfg_configured {α : Type} (c : α) : (Mode.configured c).cfg? = some c := rfl

@[simp] theorem cfg_unconfigured {α : Type} : (Mode.unconfigured : Mode α).cfg? = none := rfl

theorem common_uart {b : Block} {u : UartState} (h : b.adapter = .uart u) :
    b.common? = u.mode.cfg?.map (·.common) := by
  simp [Block.common?, h]

theorem common_spi {b : Block} {p : SpiState} (h : b.adapter = .spi p) :
    b.common? = p.mode.cfg?.map (·.common) := by
  simp [Block.common?, h]

/-! ## The step (00_scope R11) -/

theorem step_of_decode {s : State} {i : Instr} {rest : List Byte} (h : decode s.script = .ok (i, rest)) :
    step s = exec i (s.setScript rest) := by
  simp [step, fetch, h]

theorem step_eq_next {s t : State} (h : step s = .next t) :
    ∃ i rest, decode s.script = .ok (i, rest) ∧ exec i (s.setScript rest) = .next t := by
  unfold step fetch at h
  cases hd : decode s.script with
  | error e => simp [hd] at h
  | ok a => exact ⟨a.1, a.2, rfl, by simpa [hd] using h⟩

end Sys2Proof.Machine
end

