-- ==== Sys2Proof/Laws/Exec.lean ====
section
/-! SUPPORT. Everything an operation can do when it answers a next state, said once for each variant: proofs about every
operation take these cases apart and unfold no meaning. -/

namespace Sys2Proof.Machine

/-- Operation `i` of a UART instance in state `s`, whose adapter state is `u`, may leave the block `b` with result `r`. -/
inductive UartEffect (s : State) (u : UartState) : Instr → Block → Result → Prop
  | same {i : Instr} {r : Result} (hi : i ≠ .reset) (hv : ∀ v, i ≠ .uartCtsSet v) (ok : r ≠ .cfgOk)
      (sent : r ≠ .sent) (held : r = .held ↔ i = .uartTxByte)
      (off : i = .uartTxByte → txEnabled s.block.txQueue u = false) : UartEffect s u i s.block r
  | decByte {c : UartCfg} {x : Byte} (hm : u.mode = .configured c) :
      UartEffect s u (.decByte x) (s.block.setDec (decStep c.common s.block.dec x).1)
        (.dec (decStep c.common s.block.dec x).2)
  | decodeUart {c : UartCfg} {data : List Byte} (hm : u.mode = .configured c) :
      UartEffect s u (.decodeUart data) (s.block.setDec (decodeStream c.common s.block.dec data).1)
        (.decCursor (decodeStream c.common s.block.dec data).2.1 (decodeStream c.common s.block.dec data).2.2)
  | setup {a : UartCfgArg} {c : UartCfg} (hm : u.mode = .unconfigured) (hc : checkUart a = .ok c) :
      UartEffect s u (.setup (.uart a)) (s.block.cleared (.uart (u.cleared (.configured c)))) .cfgOk
  | reset : UartEffect s u .reset (s.block.cleared (.uart (u.cleared .unconfigured))) .noResult
  | trySend {c : UartCfg} {f : List Byte} (hm : u.mode = .configured c) (h1 : 1 ≤ f.length)
      (h2 : f.length ≤ uartEncMaxOf c.common.maxPayload) (room : s.block.txQueue.length ≠ c.common.txq) :
      UartEffect s u (.uartTrySend f) (s.block.setTxQueue (enq s.block.txQueue f)) .sent
  | poll {c : UartCfg} (hm : u.mode = .configured c) (hr : u.rxFifo ≠ []) :
      UartEffect s u .uartPoll (s.block.setUart { u with rxFifo := [] }) (.bytes u.rxFifo)
  | txByte (he : txEnabled s.block.txQueue u = true) :
      UartEffect s u .uartTxByte (sendByte s.block u).1 (.byteSent (sendByte s.block u).2)
  | rxByte {c : UartCfg} {x : Byte} (hm : u.mode = .configured c) (room : u.rxFifo.length < c.urxf) :
      UartEffect s u (.uartRxByte x) (s.block.setUart { u with rxFifo := enq u.rxFifo x }) .noResult
  | rxLost {c : UartCfg} {x : Byte} (hm : u.mode = .configured c) (full : ¬ u.rxFifo.length < c.urxf) :
      UartEffect s u (.uartRxByte x) { s.block with cntRxOverrun := bump s.block.cntRxOverrun } .noResult
  | ctsSet {v : Bool} : UartEffect s u (.uartCtsSet v) (s.block.setUart { u with ctsIn := v }) .noResult

/-- Operation `i` of an SPI instance in state `s`, whose adapter state is `p`, may leave the block `b` with result
`r`. -/
inductive SpiEffect (s : State) (p : SpiState) : Instr → Block → Result → Prop
  | same {i : Instr} {r : Result} (hi : i ≠ .reset) (ha : i ≠ .spiCsAssert) (hd : i ≠ .spiCsDeassert)
      (ok : r ≠ .cfgOk) (sent : r ≠ .sent) (held : r ≠ .held) : SpiEffect s p i s.block r
  | decByte {c : SpiCfg} {x : Byte} (hm : p.mode = .configured c) :
      SpiEffect s p (.decByte x) (s.block.setDec (decStep c.common s.block.dec x).1)
        (.dec (decStep c.common s.block.dec x).2)
  | decodeUart {c : SpiCfg} {data : List Byte} (hm : p.mode = .configured c) :
      SpiEffect s p (.decodeUart data) (s.block.setDec (decodeStream c.common s.block.dec data).1)
        (.decCursor (decodeStream c.common s.block.dec data).2.1 (decodeStream c.common s.block.dec data).2.2)
  | setup {a c : SpiCfg} (hm : p.mode = .unconfigured) (hc : checkSpi s.block.trigNs a = .ok c) :
      SpiEffect s p (.setup (.spi a)) (s.block.cleared (.spi (p.cleared (.configured c)))) .cfgOk
  | reset : SpiEffect s p .reset (s.block.cleared (.spi (p.cleared .unconfigured))) .noResult
  | trySend {c : SpiCfg} {f : List Byte} (hm : p.mode = .configured c) (h1 : 1 ≤ f.length)
      (h2 : f.length ≤ frameMaxOf c.common.maxPayload) (room : s.block.txQueue.length ≠ c.common.txq) :
      SpiEffect s p (.spiTrySend f)
        ((s.block.setTxQueue (enq s.block.txQueue f)).setSpi (updAvail c (enq s.block.txQueue f) p)) .sent
  | poll {c : SpiCfg} {d : List Byte} {q : List (List Byte)} (hm : p.mode = .configured c) (hr : p.rxQueue = d :: q) :
      SpiEffect s p .spiPoll (s.block.setSpi { p with rxQueue := q }) (.bytes d)
  | assertAgain (hs : p.csIn = true) : SpiEffect s p .spiCsAssert s.block .noResult
  | select (hs : p.csIn = false) (hm : p.mode = .unconfigured) :
      SpiEffect s p .spiCsAssert (s.block.setSpi { p with csIn := true }) .noResult
  | start {c : SpiCfg} (hs : p.csIn = false) (hm : p.mode = .configured c) :
      SpiEffect s p .spiCsAssert (s.block.setSpi (startTransaction c s.block.txQueue p)) .noResult
  | exchange {c : SpiCfg} {m : Byte} (hx : p.xferActive = true) (hm : p.mode = .configured c) :
      SpiEffect s p (.spiXfer m) (s.block.setSpi (exchangeByte c s.block.txQueue m p))
        (.miso (misoByte s.block.txQueue p))
  | releaseAgain (hs : p.csIn = false) : SpiEffect s p .spiCsDeassert s.block .noResult
  | finish {c : SpiCfg} (hs : p.csIn = true) (hx : p.xferActive = true) (hm : p.mode = .configured c) :
      SpiEffect s p .spiCsDeassert (endTransaction c s.block p) .noResult
  | release {c : SpiCfg} (hs : p.csIn = true) (hx : p.xferActive = false) (hm : p.mode = .configured c) :
      SpiEffect s p .spiCsDeassert (s.block.setSpi (updAvail c s.block.txQueue { p with csIn := false })) .noResult
  | deselect (hs : p.csIn = true) (hm : p.mode = .unconfigured) :
      SpiEffect s p .spiCsDeassert (s.block.setSpi { p with csIn := false }) .noResult

theorem common_eq_of_uart {b : Block} {u : UartState} {c : CommonCfg} (ha : b.adapter = .uart u)
    (h : b.common? = some c) : ∃ d, u.mode = .configured d ∧ d.common = c := by
  rw [common_uart ha] at h
  cases hm : u.mode with
  | unconfigured => simp [hm] at h
  | configured d => exact ⟨d, rfl, by simpa [hm] using h⟩

theorem common_eq_of_spi {b : Block} {p : SpiState} {c : CommonCfg} (ha : b.adapter = .spi p)
    (h : b.common? = some c) : ∃ d, p.mode = .configured d ∧ d.common = c := by
  rw [common_spi ha] at h
  cases hm : p.mode with
  | unconfigured => simp [hm] at h
  | configured d => exact ⟨d, rfl, by simpa [hm] using h⟩

/-- Whether a line holds after operation `i` left the block `b` with result `r`: UART_TX_BYTE decides it, UART_CTS_SET and
a frame accepted by UART_TRY_SEND release a line they enable, and no other operation moves it. -/
def lineAfter (s : State) (b : Block) (r : Result) : Instr → Bool
  | .uartTxByte => r == .held
  | .uartTrySend _ => if r = .sent then s.lineHeld && !b.txEnabled else s.lineHeld
  | .uartCtsSet _ => s.lineHeld && !b.txEnabled
  | _ => s.lineHeld

/-- What every operation may do on a UART instance. -/
theorem exec_uart_eq_next {i : Instr} {s t : State} {u : UartState} (ha : s.block.adapter = .uart u)
    (h : exec i s = .next t) :
    ∃ b r, t = (s.finish b r).setHeld (lineAfter s b r i) ∧ UartEffect s u i b r := by
  have keep : ∀ b r, UartEffect s u i b r → s.finish b r = t → lineAfter s b r i = s.lineHeld →
      ∃ b r, t = (s.finish b r).setHeld (lineAfter s b r i) ∧ UartEffect s u i b r :=
    fun b r e ht hv => ⟨b, r, by rw [hv]; exact ht ▸ rfl, e⟩
  cases i with
  | setup c =>
    simp only [exec, execSetup, ha, setupUart] at h
    split at h
    · exact keep _ _ (.same (by simp) (by simp) (by simp) (by simp) (by simp) (by simp)) (done_eq_next.1 h) rfl
    · rename_i hm
      cases c with
      | spi _ => cases h
      | uart a =>
        simp only at h
        split at h
        · exact keep _ _ (.same (by simp) (by simp) (by simp) (by simp) (by simp) (by simp)) (done_eq_next.1 h) rfl
        · rename_i hc; exact keep _ _ (.setup hm hc) (done_eq_next.1 h) rfl
  | reset =>
    simp only [exec, execReset, ha, Adapter.cleared] at h
    exact keep _ _ .reset (done_eq_next.1 h) rfl
  | readStatus =>
    exact keep _ _ (.same (by simp) (by simp) (by simp) (by simp) (by simp) (by simp)) (done_eq_next.1 h) rfl
  | crc16 _ => exact keep _ _ (.same (by simp) (by simp) (by simp) (by simp) (by simp) (by simp)) (done_eq_next.1 h) rfl
  | encodeUart _ _ =>
    simp only [exec, execEncodeUart, encodeWith, needCommon_eq_next] at h
    obtain ⟨c, -, h⟩ := h
    split at h <;>
      exact keep _ _ (.same (by simp) (by simp) (by simp) (by simp) (by simp) (by simp)) (done_eq_next.1 h) rfl
  | encodeSpi _ _ =>
    simp only [exec, execEncodeSpi, encodeWith, needCommon_eq_next] at h
    obtain ⟨c, -, h⟩ := h
    split at h <;>
      exact keep _ _ (.same (by simp) (by simp) (by simp) (by simp) (by simp) (by simp)) (done_eq_next.1 h) rfl
  | decByte x =>
    simp only [exec, execDecByte, needCommon_eq_next] at h
    obtain ⟨c, hc, h⟩ := h
    obtain ⟨d, hm, rfl⟩ := common_eq_of_uart ha hc
    exact keep _ _ (.decByte hm) (done_eq_next.1 h) rfl
  | decodeUart x =>
    simp only [exec, execDecodeUart, needCommon_eq_next] at h
    obtain ⟨c, hc, h⟩ := h
    obtain ⟨d, hm, rfl⟩ := common_eq_of_uart ha hc
    exact keep _ _ (.decodeUart hm) (done_eq_next.1 h) rfl
  | decodeSpi _ =>
    simp only [exec, execDecodeSpi, needCommon_eq_next] at h
    obtain ⟨c, -, h⟩ := h
    exact keep _ _ (.same (by simp) (by simp) (by simp) (by simp) (by simp) (by simp)) (done_eq_next.1 h) rfl
  | uartTrySend f =>
    simp only [exec, execUartTrySend, needUart_of ha, needCfg_eq_next, needFrameLen_eq_next] at h
    obtain ⟨c, hm, ⟨h1, h2⟩, h⟩ := h
    split at h
    · exact keep _ _ (.same (by simp) (by simp) (by simp) (by simp) (by simp) (by simp)) (done_eq_next.1 h) rfl
    · rename_i hq; exact ⟨_, _, (Host.Outcome.next.inj h).symm, .trySend hm h1 h2 hq⟩
  | uartPoll =>
    simp only [exec, execUartPoll, needUart_of ha, needCfg_eq_next] at h
    obtain ⟨c, hm, h⟩ := h
    split at h
    · exact keep _ _ (.same (by simp) (by simp) (by simp) (by simp) (by simp) (by simp)) (done_eq_next.1 h) rfl
    · rename_i hr; exact keep _ _ (.poll hm hr) (done_eq_next.1 h) rfl
  | uartTxByte =>
    simp only [exec, execUartTxByte, needUart_of ha] at h
    split at h
    · rename_i he
      exact ⟨_, _, (Host.Outcome.next.inj h).symm, .txByte he⟩
    · rename_i he
      exact ⟨_, _, (Host.Outcome.next.inj h).symm,
        .same (by simp) (by simp) (by simp) (by simp) (by simp) fun _ => by simpa using he⟩
  | uartRxByte x =>
    simp only [exec, execUartRxByte, needUart_of ha] at h
    split at h
    · exact keep _ _ (.same (by simp) (by simp) (by simp) (by simp) (by simp) (by simp)) (done_eq_next.1 h) rfl
    · rename_i c hm
      split at h
      · rename_i hr; exact keep _ _ (.rxByte hm hr) (done_eq_next.1 h) rfl
      · rename_i hr; exact keep _ _ (.rxLost hm hr) (done_eq_next.1 h) rfl
  | uartCtsSet v =>
    simp only [exec, execUartCtsSet, needUart_of ha] at h
    exact ⟨_, _, (Host.Outcome.next.inj h).symm, .ctsSet⟩
  | spiTrySend _ => simp [exec, execSpiTrySend, needSpi, ha] at h
  | spiPoll => simp [exec, execSpiPoll, needSpi, ha] at h
  | spiCsAssert => simp [exec, execSpiCsAssert, needSpi, ha] at h
  | spiXfer _ => simp [exec, execSpiXfer, needSpi, ha] at h
  | spiCsDeassert => simp [exec, execSpiCsDeassert, needSpi, ha] at h

/-- What every operation may do on an SPI instance. -/
theorem exec_spi_eq_next {i : Instr} {s t : State} {p : SpiState} (ha : s.block.adapter = .spi p)
    (h : exec i s = .next t) : ∃ b r, t = s.finish b r ∧ SpiEffect s p i b r := by
  have keep : ∀ b r, SpiEffect s p i b r → s.finish b r = t → ∃ b r, t = s.finish b r ∧ SpiEffect s p i b r :=
    fun b r e ht => ⟨b, r, ht.symm, e⟩
  cases i with
  | setup c =>
    simp only [exec, execSetup, ha, setupSpi] at h
    split at h
    · exact keep _ _ (.same (by simp) (by simp) (by simp) (by simp) (by simp) (by simp)) (done_eq_next.1 h)
    · rename_i hm
      cases c with
      | uart _ => cases h
      | spi a =>
        simp only at h
        split at h
        · exact keep _ _ (.same (by simp) (by simp) (by simp) (by simp) (by simp) (by simp)) (done_eq_next.1 h)
        · rename_i hc; exact keep _ _ (.setup hm hc) (done_eq_next.1 h)
  | reset =>
    simp only [exec, execReset, ha, Adapter.cleared] at h
    exact keep _ _ .reset (done_eq_next.1 h)
  | readStatus => exact keep _ _ (.same (by simp) (by simp) (by simp) (by simp) (by simp) (by simp)) (done_eq_next.1 h)
  | crc16 _ => exact keep _ _ (.same (by simp) (by simp) (by simp) (by simp) (by simp) (by simp)) (done_eq_next.1 h)
  | encodeUart _ _ =>
    simp only [exec, execEncodeUart, encodeWith, needCommon_eq_next] at h
    obtain ⟨c, -, h⟩ := h
    split at h <;> exact keep _ _ (.same (by simp) (by simp) (by simp) (by simp) (by simp) (by simp)) (done_eq_next.1 h)
  | encodeSpi _ _ =>
    simp only [exec, execEncodeSpi, encodeWith, needCommon_eq_next] at h
    obtain ⟨c, -, h⟩ := h
    split at h <;> exact keep _ _ (.same (by simp) (by simp) (by simp) (by simp) (by simp) (by simp)) (done_eq_next.1 h)
  | decByte x =>
    simp only [exec, execDecByte, needCommon_eq_next] at h
    obtain ⟨c, hc, h⟩ := h
    obtain ⟨d, hm, rfl⟩ := common_eq_of_spi ha hc
    exact keep _ _ (.decByte hm) (done_eq_next.1 h)
  | decodeUart x =>
    simp only [exec, execDecodeUart, needCommon_eq_next] at h
    obtain ⟨c, hc, h⟩ := h
    obtain ⟨d, hm, rfl⟩ := common_eq_of_spi ha hc
    exact keep _ _ (.decodeUart hm) (done_eq_next.1 h)
  | decodeSpi _ =>
    simp only [exec, execDecodeSpi, needCommon_eq_next] at h
    obtain ⟨c, -, h⟩ := h
    exact keep _ _ (.same (by simp) (by simp) (by simp) (by simp) (by simp) (by simp)) (done_eq_next.1 h)
  | uartTrySend _ => simp [exec, execUartTrySend, needUart, ha] at h
  | uartPoll => simp [exec, execUartPoll, needUart, ha] at h
  | uartTxByte => simp [exec, execUartTxByte, needUart, ha] at h
  | uartRxByte _ => simp [exec, execUartRxByte, needUart, ha] at h
  | uartCtsSet _ => simp [exec, execUartCtsSet, needUart, ha] at h
  | spiTrySend f =>
    simp only [exec, execSpiTrySend, needSpi_of ha, needCfg_eq_next, needFrameLen_eq_next] at h
    obtain ⟨c, hm, ⟨h1, h2⟩, h⟩ := h
    split at h
    · exact keep _ _ (.same (by simp) (by simp) (by simp) (by simp) (by simp) (by simp)) (done_eq_next.1 h)
    · rename_i hq; exact keep _ _ (.trySend hm h1 h2 hq) (done_eq_next.1 h)
  | spiPoll =>
    simp only [exec, execSpiPoll, needSpi_of ha, needCfg_eq_next] at h
    obtain ⟨c, hm, h⟩ := h
    split at h
    · exact keep _ _ (.same (by simp) (by simp) (by simp) (by simp) (by simp) (by simp)) (done_eq_next.1 h)
    · rename_i hr; exact keep _ _ (.poll hm hr) (done_eq_next.1 h)
  | spiCsAssert =>
    simp only [exec, execSpiCsAssert, needSpi_of ha] at h
    split at h
    · rename_i hs; exact keep _ _ (.assertAgain hs) (done_eq_next.1 h)
    · rename_i hs
      simp only [Bool.not_eq_true] at hs
      split at h
      · rename_i hm; exact keep _ _ (.select hs hm) (done_eq_next.1 h)
      · rename_i hm; exact keep _ _ (.start hs hm) (done_eq_next.1 h)
  | spiXfer m =>
    simp only [exec, execSpiXfer, needSpi_of ha] at h
    split at h
    · rename_i hx hm; exact keep _ _ (.exchange hx hm) (done_eq_next.1 h)
    · exact keep _ _ (.same (by simp) (by simp) (by simp) (by simp) (by simp) (by simp)) (done_eq_next.1 h)
  | spiCsDeassert =>
    simp only [exec, execSpiCsDeassert, needSpi_of ha] at h
    split at h
    · rename_i hs; exact keep _ _ (.releaseAgain (by simpa using hs)) (done_eq_next.1 h)
    · rename_i hs
      replace hs : p.csIn = true := by simpa using hs
      split at h
      · rename_i hx hm; exact keep _ _ (.finish hs hx hm) (done_eq_next.1 h)
      · rename_i hx hm; exact keep _ _ (.release hs hx hm) (done_eq_next.1 h)
      · rename_i hm; exact keep _ _ (.deselect hs hm) (done_eq_next.1 h)

end Sys2Proof.Machine
end

