-- ==== Sys2Proof/Laws/Adapters.lean ====
section
/-! SUPPORT. What the larger adapter operations write, one record each: every field not named is as it was. -/

namespace Sys2Proof.Machine

/-- UART_TX_BYTE at the last byte of the head frame. -/
theorem sendByte_last {b : Block} {u : UartState} (h : u.txPos + 1 = (headFrame b.txQueue).length) :
    (sendByte b u).1 =
      { b with
        adapter := .uart { u with txPos := 0, wireTx := u.wireTx ++ [byteAt (headFrame b.txQueue) u.txPos] }
        txQueue := deq b.txQueue, cntTxFrames := bump b.cntTxFrames } := by
  simp [sendByte, h, emitWire]

/-- UART_TX_BYTE before the last byte of the head frame. -/
theorem sendByte_more {b : Block} {u : UartState} (h : u.txPos + 1 ≠ (headFrame b.txQueue).length) :
    (sendByte b u).1 =
      { b with
        adapter := .uart
          { u with txPos := u.txPos + 1, wireTx := u.wireTx ++ [byteAt (headFrame b.txQueue) u.txPos] } } := by
  simp [sendByte, h, emitWire, Block.setUart]

theorem sendByte_result (b : Block) (u : UartState) : (sendByte b u).2 = byteAt (headFrame b.txQueue) u.txPos := by
  simp only [sendByte]; split <;> rfl

/-- SPI_XFER in a transaction. -/
theorem exchangeByte_eq (c : SpiCfg) (q : List (List Byte)) (m : Byte) (p : SpiState) :
    exchangeByte c q m p =
      { p with
        rxCur := if p.rxCur.length < frameMaxOf c.common.maxPayload then p.rxCur ++ [m] else p.rxCur
        cntRxClipped :=
          if p.rxCur.length < frameMaxOf c.common.maxPayload then p.cntRxClipped else bump p.cntRxClipped
        xferPos := p.xferPos + 1
        doneSent := p.doneSent || (p.txLoaded && decide (p.xferPos + 1 = (headFrame q).length))
        trigOut := p.trigOut ++
          if p.txLoaded && !p.doneSent && decide (p.xferPos + 1 = (headFrame q).length) then [c.tDone] else [] } := by
  obtain ⟨mode, rxQueue, rxCur, xferActive, txLoaded, xferPos, doneSent, txAvailOut, csIn, cut, idle, clipped, trigs⟩ := p
  by_cases h1 : rxCur.length < frameMaxOf c.common.maxPayload <;>
    by_cases h2 : xferPos + 1 = (headFrame q).length <;> cases txLoaded <;> cases doneSent <;>
    simp [exchangeByte, signalDone, storeMosi, emitTrig, enq, h1, h2]

/-- SPI_CS_DEASSERT at the end of a transaction: what is left of the transmit queue, … -/
def queueAfter (b : Block) (p : SpiState) : List (List Byte) :=
  if p.txLoaded && decide ((headFrame b.txQueue).length ≤ p.xferPos) then deq b.txQueue else b.txQueue

/-- … and the whole block. -/
theorem endTransaction_eq (c : SpiCfg) (b : Block) (p : SpiState) :
    endTransaction c b p =
      { b with
        txQueue := queueAfter b p
        cntTxFrames :=
          if p.txLoaded && decide ((headFrame b.txQueue).length ≤ p.xferPos) then bump b.cntTxFrames
          else b.cntTxFrames
        cntRxOverrun :=
          if !allFill p.rxCur && decide (p.rxQueue.length = c.common.rxq) then bump b.cntRxOverrun
          else b.cntRxOverrun
        adapter := .spi
          { p with
            csIn := false, xferActive := false, txLoaded := false, xferPos := 0, rxCur := [], doneSent := false
            rxQueue :=
              if !allFill p.rxCur && !decide (p.rxQueue.length = c.common.rxq) then p.rxQueue ++ [p.rxCur]
              else p.rxQueue
            cntTxTruncated :=
              if p.txLoaded && !decide ((headFrame b.txQueue).length ≤ p.xferPos) then bump p.cntTxTruncated
              else p.cntTxTruncated
            cntRxIdle := if allFill p.rxCur then bump p.cntRxIdle else p.cntRxIdle
            txAvailOut := !(queueAfter b p).isEmpty
            trigOut := p.trigOut ++ [c.tCsd] ++
              if !(queueAfter b p).isEmpty && !p.txAvailOut then [c.tTxav] else [] } } := by
  obtain ⟨mode, rxQueue, rxCur, xferActive, txLoaded, xferPos, doneSent, txAvailOut, csIn, cut, idle, clipped, trigs⟩ := p
  by_cases h2 : (headFrame b.txQueue).length ≤ xferPos <;> by_cases h4 : rxQueue.length = c.common.rxq <;>
    cases txLoaded <;> cases h3 : allFill rxCur <;>
    simp [endTransaction, retireFrame, commitReceived, emitTrig, updAvail, availLevel, availTriggers, Block.setSpi,
      queueAfter, enq, h2, h3, h4]

end Sys2Proof.Machine
end

