-- ==== Sys2Proof/Laws/Codec.lean ====
section
/-! SUPPORT. The arithmetic under the codec: the two bytes of a 16-bit field, the shape of a content, and the linearity
of the CRC (40_codec R130), from which a changed byte is seen to change the CRC. -/

namespace Sys2Proof.Machine

/-! ## Byte order -/

theorem u16le_lo8_hi8 (v : Half) : u16le (lo8 v) (hi8 v) = v.toNat := by
  have := v.isLt
  simp [u16le, lo8, hi8, Nat.shiftRight_eq_div_pow]
  omega

theorem u16le_inj {a b a' b' : Byte} (h : u16le a b = u16le a' b') : a = a' ∧ b = b' := by
  have := a.isLt
  have := a'.isLt
  constructor <;> apply BitVec.eq_of_toNat_eq <;> simp only [u16le] at h <;> omega

/-! ## The shape of a content -/

theorem hdrBytes_length (h : Hdr) (n : Nat) : (hdrBytes h n).length = 6 := rfl

theorem content_eq (h : Hdr) (p : List Byte) :
    content h p = hdrBytes h p.length ++ p ++
      [lo8 (crc16 (hdrBytes h p.length ++ p)), hi8 (crc16 (hdrBytes h p.length ++ p))] := rfl

theorem content_length (h : Hdr) (p : List Byte) : (content h p).length = 8 + p.length := by
  simp [content_eq, hdrBytes_length]
  omega

/-! ## The CRC is linear and each of its steps is one to one -/

theorem crcShift_eq_zero {c : Half} (h : crcShift c = 0) : c = 0 := by
  have h0 : (crcShift c).getLsbD 0 = false := by rw [h]; rfl
  unfold crcShift at h h0
  split at h
  · rename_i hm; simp [hm, crcPoly] at h0
  · rename_i hm
    have h1 := congrArg BitVec.toNat h
    simp [BitVec.msb_eq_decide] at hm
    simp [BitVec.toNat_shiftLeft, Nat.shiftLeft_eq] at h1
    apply BitVec.eq_of_toNat_eq
    simp
    omega

theorem crcShift_xor (a b : Half) : crcShift (a ^^^ b) = crcShift a ^^^ crcShift b := by
  have swap : ∀ x y : Half, x ^^^ crcPoly ^^^ (y ^^^ crcPoly) = x ^^^ y := fun x y => by
    rw [BitVec.xor_comm y, BitVec.xor_assoc, ← BitVec.xor_assoc crcPoly]; simp
  unfold crcShift
  rw [BitVec.msb_xor, BitVec.shiftLeft_xor_distrib]
  cases a.msb <;> cases b.msb <;> simp [swap, BitVec.xor_assoc]
  rw [BitVec.xor_comm crcPoly]

theorem crcShifts_xor (k : Nat) (a b : Half) : crcShifts k (a ^^^ b) = crcShifts k a ^^^ crcShifts k b := by
  induction k generalizing a b with
  | zero => rfl
  | succ k ih => simp [crcShifts, crcShift_xor, ih]

theorem crcShifts_eq_zero {k : Nat} {c : Half} (h : crcShifts k c = 0) : c = 0 := by
  induction k generalizing c with
  | zero => exact h
  | succ k ih => exact crcShift_eq_zero (ih h)

theorem crcShifts_inj {k : Nat} {a b : Half} (h : crcShifts k a = crcShifts k b) : a = b := by
  have h0 : crcShifts k (a ^^^ b) = 0 := by rw [crcShifts_xor, h]; simp
  simpa using crcShifts_eq_zero h0

theorem crcByte_inj {a b : Half} {x : Byte} (h : crcByte a x = crcByte b x) : a = b := by
  simpa using crcShifts_inj h

theorem crcByte_byte_inj {a : Half} {x y : Byte} (h : crcByte a x = crcByte a y) : x = y := by
  have h1 := crcShifts_inj h
  simp at h1
  have h2 := congrArg BitVec.toNat h1
  apply BitVec.eq_of_toNat_eq
  have := x.isLt
  have := y.isLt
  simp [BitVec.toNat_shiftLeft, Nat.shiftLeft_eq] at h2
  omega

theorem crcFrom_inj {a b : Half} {s : List Byte} (h : crcFrom a s = crcFrom b s) : a = b := by
  induction s generalizing a b with
  | nil => exact h
  | cons x s ih => exact crcByte_inj (ih h)

/-- One changed byte changes the CRC. -/
theorem crcFrom_set_ne (c : Half) (s : List Byte) {j : Nat} {x : Byte} (hj : j < s.length) (hx : x ≠ byteAt s j) :
    crcFrom c (s.set j x) ≠ crcFrom c s := by
  induction s generalizing c j with
  | nil => simp at hj
  | cons y s ih =>
    cases j with
    | zero =>
      intro h
      have h' := crcByte_byte_inj (crcFrom_inj (s := s) h)
      exact hx (by simpa [byteAt] using h')
    | succ j =>
      simp only [List.set_cons_succ]
      exact ih _ (by simpa using hj) (by simpa [byteAt] using hx)

end Sys2Proof.Machine
end

