-- ==== Sys2Proof/Laws/Decode.lean ====
section
/-! SUPPORT. Each operand reader undoes its writer, whatever bytes follow, and reads only what its writer writes. -/

namespace Sys2Proof

/-! ## Readers undo writers -/

@[simp] theorem takeByte_cons (b : Byte) (r : List Byte) : takeByte (b :: r) = .ok (b, r) := rfl

@[simp] theorem takeLevel_putLevel (v : Bool) (r : List Byte) : takeLevel (putLevel v ++ r) = .ok (v, r) := by
  cases v <;> simp [takeLevel, putLevel]

@[simp] theorem takeBytes_putBytes (bs r : List Byte) : takeBytes (putBytes bs ++ r) = .ok (bs, r) := by
  induction bs with
  | nil => cases r <;> simp [putBytes, takeBytes]
  | cons b bs ih => simp [putBytes, takeBytes, ih]

theorem natOfDigits_digitsFuel (k n : Nat) (h : n ≤ k) : natOfDigits (digitsFuel k n) = n := by
  induction k generalizing n with
  | zero => simp [digitsFuel, natOfDigits]; omega
  | succ k ih =>
    unfold digitsFuel
    split
    · simp [natOfDigits, *]
    · simp only [natOfDigits, ih (n / 256) (by omega), BitVec.toNat_ofNat]; omega

@[simp] theorem natOfDigits_natDigits (n : Nat) : natOfDigits (natDigits n) = n :=
  natOfDigits_digitsFuel n n (Nat.le_refl n)

theorem digitsFuel_getLast (k n : Nat) (h : n ≤ k) : (digitsFuel k n).getLast? ≠ some 0 := by
  induction k generalizing n with
  | zero => simp [digitsFuel]
  | succ k ih =>
    unfold digitsFuel
    split
    · simp
    · rename_i hn
      have hk := ih (n / 256) (by omega)
      by_cases hq : n / 256 = 0
      · have hd : digitsFuel k (n / 256) = [] := by cases k <;> simp [digitsFuel, hq]
        simp only [hd, List.getLast?_singleton, ne_eq, Option.some.injEq]
        intro h0
        have := congrArg BitVec.toNat h0
        simp at this; omega
      · have hne : digitsFuel k (n / 256) ≠ [] := by
          cases k with
          | zero => omega
          | succ k => simp [digitsFuel, hq]
        rw [List.getLast?_cons_of_ne_nil hne]; exact hk

theorem natDigits_getLast (n : Nat) : (natDigits n).getLast? ≠ some 0 := digitsFuel_getLast n n (Nat.le_refl n)

@[simp] theorem takeNat_putNat (n : Nat) (r : List Byte) : takeNat (putNat n ++ r) = .ok (n, r) := by
  simp [takeNat, putNat]
  exact natDigits_getLast n

@[simp] theorem takeOptNat_putOptNat (o : Option Nat) (r : List Byte) :
    takeOptNat (putOptNat o ++ r) = .ok (o, r) := by
  cases o <;> simp [takeOptNat, putOptNat]

@[simp] theorem flowOfByte_flowByte (f : FlowArg) (h : f.wellFormed = true) : flowOfByte (flowByte f) = f := by
  cases f with
  | mode m => cases m <;> rfl
  | other code => simp [FlowArg.wellFormed] at h; simp [flowByte, flowOfByte, h]

@[simp] theorem takeHdr_putHdr (h : Hdr) (r : List Byte) : takeHdr (putHdr h ++ r) = .ok (h, r) := rfl

/-- Chaining readers. -/
@[simp] theorem ok_bind {ε α β : Type} (a : α) (f : α → Except ε β) : (Except.ok a >>= f) = f a := rfl

@[simp] theorem takeCommon_putCommon (c : CommonCfg) (r : List Byte) :
    takeCommon (putCommon c ++ r) = .ok (c, r) := by
  simp [takeCommon, putCommon, List.append_assoc, pure, Except.pure]

@[simp] theorem takeCfg_putCfg (c : CfgArg) (r : List Byte) (h : c.wellFormed = true) :
    takeCfg (putCfg c ++ r) = .ok (c, r) := by
  cases c with
  | uart c =>
    simp only [CfgArg.wellFormed] at h
    simp [takeCfg, putCfg, List.append_assoc, pure, Except.pure, h]
  | spi c => simp [takeCfg, putCfg, List.append_assoc, pure, Except.pure]

/-! ## Readers read only what writers write -/

theorem ok_of_bind {ε α β : Type} {x : Except ε α} {f : α → Except ε β} {b : β} (h : (x >>= f) = .ok b) :
    ∃ a, x = .ok a ∧ f a = .ok b := by
  cases x with
  | error e => cases h
  | ok a => exact ⟨a, rfl, h⟩

theorem takeByte_eq {bs r : List Byte} {b : Byte} (h : takeByte bs = .ok (b, r)) : bs = b :: r := by
  cases bs with
  | nil => cases h
  | cons c bs => simp [takeByte] at h; rw [h.1, h.2]

theorem takeLevel_eq {bs r : List Byte} {v : Bool} (h : takeLevel bs = .ok (v, r)) : bs = putLevel v ++ r := by
  cases bs with
  | nil => cases h
  | cons c bs =>
    simp only [takeLevel] at h
    split at h
    · simp at h; obtain ⟨rfl, rfl⟩ := h; simp [putLevel, *]
    · split at h
      · simp at h; obtain ⟨rfl, rfl⟩ := h; simp [putLevel, *]
      · cases h

theorem takeBytes_eq : ∀ {bs xs r : List Byte}, takeBytes bs = .ok (xs, r) → bs = putBytes xs ++ r
  | [], _, _, h => by cases h
  | [m], xs, r, h => by
    simp only [takeBytes] at h
    split at h
    · simp at h; obtain ⟨rfl, rfl⟩ := h; simp [putBytes, *]
    · split at h <;> cases h
  | m :: b :: bs, xs, r, h => by
    simp only [takeBytes] at h
    split at h
    · simp at h; obtain ⟨rfl, rfl⟩ := h; simp [putBytes, *]
    · split at h
      · split at h
        · rename_i ys r' hb
          simp at h; obtain ⟨rfl, rfl⟩ := h
          simp [putBytes, takeBytes_eq hb, *]
        · cases h
      · cases h

theorem natOfDigits_eq_zero {ds : List Byte} (hl : ds.getLast? ≠ some 0) (h0 : natOfDigits ds = 0) : ds = [] := by
  induction ds with
  | nil => rfl
  | cons d ds ih =>
    simp only [natOfDigits] at h0
    cases ds with
    | nil =>
      have : d = 0 := by apply BitVec.eq_of_toNat_eq; simp; omega
      simp [this] at hl
    | cons e es =>
      have := ih (by simpa [List.getLast?_cons_cons] using hl) (by omega)
      cases this

theorem digitsFuel_natOfDigits {ds : List Byte} (hl : ds.getLast? ≠ some 0) :
    ∀ k, natOfDigits ds ≤ k → digitsFuel k (natOfDigits ds) = ds := by
  induction ds with
  | nil => intro k _; cases k <;> simp [digitsFuel, natOfDigits]
  | cons d ds ih =>
    intro k hk
    have hl' : ds.getLast? ≠ some 0 := by
      cases ds with
      | nil => simp
      | cons e es => simpa [List.getLast?_cons_cons] using hl
    have hne : natOfDigits (d :: ds) ≠ 0 := fun h => by cases natOfDigits_eq_zero hl h
    have hd := d.isLt
    cases k with
    | zero => omega
    | succ k =>
      unfold digitsFuel
      rw [if_neg hne]
      simp only [natOfDigits] at hk hne ⊢
      have hq : (d.toNat + 256 * natOfDigits ds) / 256 = natOfDigits ds := by omega
      rw [hq, ih hl' k (by omega)]
      congr 1
      apply BitVec.eq_of_toNat_eq
      simp only [BitVec.toNat_ofNat]
      omega

theorem takeNat_eq {bs r : List Byte} {n : Nat} (h : takeNat bs = .ok (n, r)) : bs = putNat n ++ r := by
  unfold takeNat at h
  split at h
  · rename_i ds r' hb
    split at h
    · cases h
    · rename_i hl
      simp at h; obtain ⟨rfl, rfl⟩ := h
      rw [takeBytes_eq hb, putNat, natDigits, digitsFuel_natOfDigits hl _ (Nat.le_refl _)]
  · cases h

theorem takeOptNat_eq {bs r : List Byte} {o : Option Nat} (h : takeOptNat bs = .ok (o, r)) :
    bs = putOptNat o ++ r := by
  unfold takeOptNat at h
  split at h
  · rename_i hb; simp at h; obtain ⟨rfl, rfl⟩ := h; rw [takeLevel_eq hb]; rfl
  · rename_i hb
    split at h
    · rename_i hn; simp at h; obtain ⟨rfl, rfl⟩ := h
      rw [takeLevel_eq hb, takeNat_eq hn]; simp [putOptNat]
    · cases h
  · cases h

theorem flowByte_flowOfByte (b : Byte) : flowByte (flowOfByte b) = b ∧ (flowOfByte b).wellFormed = true := by
  unfold flowOfByte
  split
  · simp [flowByte, FlowArg.wellFormed, *]
  · split
    · simp [flowByte, FlowArg.wellFormed, *]
    · rename_i h0 h1
      exact ⟨rfl, by simpa [FlowArg.wellFormed] using ⟨h0, h1⟩⟩

theorem takeHdr_eq {bs r : List Byte} {h : Hdr} (e : takeHdr bs = .ok (h, r)) : bs = putHdr h ++ r := by
  obtain ⟨⟨ep, r1⟩, h1, e⟩ := ok_of_bind e
  obtain ⟨⟨ctrl, r2⟩, h2, e⟩ := ok_of_bind e
  obtain ⟨⟨seq, r3⟩, h3, e⟩ := ok_of_bind e
  obtain ⟨⟨ack, r4⟩, h4, e⟩ := ok_of_bind e
  simp [pure, Except.pure] at e
  obtain ⟨rfl, rfl⟩ := e
  simp [putHdr, takeByte_eq h1, takeByte_eq h2, takeByte_eq h3, takeByte_eq h4]

theorem takeCommon_eq {bs r : List Byte} {c : CommonCfg} (e : takeCommon bs = .ok (c, r)) :
    bs = putCommon c ++ r := by
  obtain ⟨⟨a1, r1⟩, h1, e⟩ := ok_of_bind e
  obtain ⟨⟨a2, r2⟩, h2, e⟩ := ok_of_bind e
  obtain ⟨⟨a3, r3⟩, h3, e⟩ := ok_of_bind e
  obtain ⟨⟨a4, r4⟩, h4, e⟩ := ok_of_bind e
  obtain ⟨⟨a5, r5⟩, h5, e⟩ := ok_of_bind e
  simp [pure, Except.pure] at e
  obtain ⟨rfl, rfl⟩ := e
  simp [putCommon, takeNat_eq h1, takeNat_eq h2, takeNat_eq h3, takeNat_eq h4, takeNat_eq h5, List.append_assoc]

theorem takeCfg_eq {bs r : List Byte} {c : CfgArg} (e : takeCfg bs = .ok (c, r)) :
    c.wellFormed = true ∧ bs = putCfg c ++ r := by
  obtain ⟨⟨isSpi, r0⟩, h0, e⟩ := ok_of_bind e
  obtain ⟨⟨cc, rc⟩, hc, e⟩ := ok_of_bind e
  cases isSpi with
  | true =>
    obtain ⟨⟨a1, r1⟩, h1, e⟩ := ok_of_bind e
    obtain ⟨⟨a2, r2⟩, h2, e⟩ := ok_of_bind e
    obtain ⟨⟨a3, r3⟩, h3, e⟩ := ok_of_bind e
    obtain ⟨⟨a4, r4⟩, h4, e⟩ := ok_of_bind e
    simp [pure, Except.pure] at e
    obtain ⟨rfl, rfl⟩ := e
    refine ⟨rfl, ?_⟩
    simp [putCfg, takeLevel_eq h0, takeCommon_eq hc, takeNat_eq h1, takeNat_eq h2, takeNat_eq h3, takeNat_eq h4,
      List.append_assoc]
  | false =>
    obtain ⟨⟨a1, r1⟩, h1, e⟩ := ok_of_bind e
    obtain ⟨⟨fl, r2⟩, h2, e⟩ := ok_of_bind e
    obtain ⟨⟨ux, r3⟩, h3, e⟩ := ok_of_bind e
    simp [pure, Except.pure] at e
    obtain ⟨rfl, rfl⟩ := e
    refine ⟨(flowByte_flowOfByte fl).2, ?_⟩
    simp [putCfg, takeLevel_eq h0, takeCommon_eq hc, takeNat_eq h1, takeByte_eq h2, takeOptNat_eq h3,
      (flowByte_flowOfByte fl).1, List.append_assoc]

end Sys2Proof
end

