-- ==== Sys2Proof/Laws/PerInstr.lean ====
section
/-! SUPPORT. The code byte, operation by operation (30_encoding R100, R101): the first byte of the encoding; TXE's only
code is 0x22; the operations of both variants are those of groups 0 and 1. -/

namespace Sys2Proof.Laws.CodeByte

def Statement (i : Instr) : Prop :=
  (encode i).head? = some i.code ∧ (i.agent = .txe ↔ i.code = 0x22) ∧ (i.variant? = none ↔ i.code.toNat < 0x20)

/-- From the three facts about the operation's own row. -/
theorem of_row {i : Instr} (ha : i.agent = .txe ↔ i.code = 0x22) (hv : i.variant? = none ↔ i.code.toNat < 0x20) :
    Statement i := ⟨rfl, ha, hv⟩

theorem setup (c : CfgArg) : Statement (.setup c) :=
  of_row (by simp [Instr.agent, Instr.code]) (by simp [Instr.variant?, Instr.code])

theorem reset : Statement (.reset) :=
  of_row (by simp [Instr.agent, Instr.code]) (by simp [Instr.variant?, Instr.code])

theorem readStatus : Statement (.readStatus) :=
  of_row (by simp [Instr.agent, Instr.code]) (by simp [Instr.variant?, Instr.code])

theorem crc16 (s : List Byte) : Statement (.crc16 s) :=
  of_row (by simp [Instr.agent, Instr.code]) (by simp [Instr.variant?, Instr.code])

theorem encodeUart (h : Hdr) (p : List Byte) : Statement (.encodeUart h p) :=
  of_row (by simp [Instr.agent, Instr.code]) (by simp [Instr.variant?, Instr.code])

theorem encodeSpi (h : Hdr) (p : List Byte) : Statement (.encodeSpi h p) :=
  of_row (by simp [Instr.agent, Instr.code]) (by simp [Instr.variant?, Instr.code])

theorem decByte (x : Byte) : Statement (.decByte x) :=
  of_row (by simp [Instr.agent, Instr.code]) (by simp [Instr.variant?, Instr.code])

theorem decodeUart (s : List Byte) : Statement (.decodeUart s) :=
  of_row (by simp [Instr.agent, Instr.code]) (by simp [Instr.variant?, Instr.code])

theorem decodeSpi (t : List Byte) : Statement (.decodeSpi t) :=
  of_row (by simp [Instr.agent, Instr.code]) (by simp [Instr.variant?, Instr.code])

theorem uartTrySend (f : List Byte) : Statement (.uartTrySend f) :=
  of_row (by simp [Instr.agent, Instr.code]) (by simp [Instr.variant?, Instr.code])

theorem uartPoll : Statement (.uartPoll) :=
  of_row (by simp [Instr.agent, Instr.code]) (by simp [Instr.variant?, Instr.code])

theorem uartTxByte : Statement (.uartTxByte) :=
  of_row (by simp [Instr.agent, Instr.code]) (by simp [Instr.variant?, Instr.code])

theorem uartRxByte (x : Byte) : Statement (.uartRxByte x) :=
  of_row (by simp [Instr.agent, Instr.code]) (by simp [Instr.variant?, Instr.code])

theorem uartCtsSet (v : Bool) : Statement (.uartCtsSet v) :=
  of_row (by simp [Instr.agent, Instr.code]) (by simp [Instr.variant?, Instr.code])

theorem spiTrySend (f : List Byte) : Statement (.spiTrySend f) :=
  of_row (by simp [Instr.agent, Instr.code]) (by simp [Instr.variant?, Instr.code])

theorem spiPoll : Statement (.spiPoll) :=
  of_row (by simp [Instr.agent, Instr.code]) (by simp [Instr.variant?, Instr.code])

theorem spiCsAssert : Statement (.spiCsAssert) :=
  of_row (by simp [Instr.agent, Instr.code]) (by simp [Instr.variant?, Instr.code])

theorem spiXfer (m : Byte) : Statement (.spiXfer m) :=
  of_row (by simp [Instr.agent, Instr.code]) (by simp [Instr.variant?, Instr.code])

theorem spiCsDeassert : Statement (.spiCsDeassert) :=
  of_row (by simp [Instr.agent, Instr.code]) (by simp [Instr.variant?, Instr.code])

end Sys2Proof.Laws.CodeByte
end

