-- ==== Sys2Proof/Tests/Slice0.lean ====
section
/-! SUPPORT. Tests: the expected words are written out from 30_encoding, the expected results are those of
95_test_vectors (the vector is named beside each); then a witness for the hypotheses of each statement. -/

namespace Sys2Proof.Tests

open Sys2Proof.Machine Sys2Proof.Safety Sys2Proof.Spec

/-! ## Small states -/

/-- The configuration 95_test_vectors takes unless it says otherwise. -/
def common : CommonCfg := ⟨10, 10, 64, 4, 256⟩

/-- One frame each way, two payload bytes: FRAME_MAX is 10. -/
def small : CommonCfg := ⟨1, 1, 2, 4, 256⟩

def uartCfg (c : CommonCfg) (flow : FlowMode) (urxf : Nat) : UartCfg := ⟨c, 115200, flow, urxf⟩

def spiCfg (c : CommonCfg) : SpiCfg := ⟨c, 1, 2, 3, 4⟩

def uartOn (c : UartCfg) : UartState := { UartState.powerOn with mode := .configured c }

def spiOn (c : SpiCfg) : SpiState := { SpiState.powerOn with mode := .configured c }

def uartState (u : UartState) (q : List (List Byte)) : State :=
  { State.powerOn .uart 16 with block := { Block.powerOn .uart 16 with adapter := .uart u, txQueue := q } }

def spiState (p : SpiState) (q : List (List Byte)) : State :=
  { State.powerOn .spi 16 with block := { Block.powerOn .spi 16 with adapter := .spi p, txQueue := q } }

def withDec (s : State) (d : Dec) : State := { s with block := s.block.setDec d }

def after (o : Out) : Option State :=
  match o with
  | .next t => some t
  | _ => none

def resultOf (o : Out) : Option Result := (after o).map (·.result)

def faultOf (o : Out) : Option Fault :=
  match o with
  | .fault f => some f
  | _ => none

def uartOf (o : Out) : Option UartState := (after o).bind fun t =>
  match t.block.adapter with
  | .uart u => some u
  | .spi _ => none

def spiOf (o : Out) : Option SpiState := (after o).bind fun t =>
  match t.block.adapter with
  | .spi p => some p
  | .uart _ => none

/-- Vector E1: its content, and its UART wire frame. -/
def e1 : List Byte := [0x01, 0x01, 0x00, 0x00, 0x02, 0x00, 0x48, 0x69, 0x0E, 0x5A]
def e1Wire : List Byte := e1 ++ [0x7E]

/-- Vector E3. -/
def e3 : List Byte := [0x00, 0x02, 0x00, 0x01, 0x00, 0x00, 0xA3, 0x7D]

/-- A legal UART record and a legal SPI record, as SETUP receives them. -/
def uartArg : UartCfgArg := ⟨common, 115200, .mode .none, none⟩

/-! ## WellFormed: an ill-formed term for its one check -/

theorem test_flow_none_has_one_spelling :
    (Instr.setup (.uart { uartArg with flow := .other 0 })).wellFormed = false := by decide

theorem test_flow_ctsRts_has_one_spelling :
    (Instr.setup (.uart { uartArg with flow := .other 1 })).wellFormed = false := by decide

theorem test_illegal_flow_is_an_operand :
    (Instr.setup (.uart { uartArg with flow := .other 2 })).wellFormed = true := by decide

/-! ## Decode: one word of every row of the opcode table (30 R101), the operands as log 2 lays them out -/

theorem test_decode_setup :
    decode [0x01, 0, 1, 10, 0, 1, 9, 0, 1, 64, 0, 1, 4, 0, 1, 0, 1, 1, 0, 1, 0x00, 1, 0xC2, 1, 0x01, 0, 1, 0] =
      .ok (.setup (.uart ⟨⟨10, 9, 64, 4, 256⟩, 115200, .mode .ctsRts, none⟩), []) := rfl

theorem test_decode_setup_urxf :
    decode [0x01, 0, 1, 10, 0, 1, 9, 0, 0, 1, 4, 0, 1, 8, 0, 1, 1, 0, 7, 1, 1, 12, 0] =
      .ok (.setup (.uart ⟨⟨10, 9, 0, 4, 8⟩, 1, .other 7, some 12⟩), []) := rfl

theorem test_decode_reset : decode [0x02, 0x55] = .ok (.reset, [0x55]) := rfl

theorem test_decode_readStatus : decode [0x03] = .ok (.readStatus, []) := rfl

theorem test_decode_crc16 : decode [0x10, 1, 0x31, 1, 0x32, 0] = .ok (.crc16 [0x31, 0x32], []) := rfl

theorem test_decode_encodeUart :
    decode [0x11, 1, 2, 3, 4, 1, 0x48, 0] = .ok (.encodeUart ⟨1, 2, 3, 4⟩ [0x48], []) := rfl

theorem test_decode_encodeSpi : decode [0x12, 1, 2, 3, 4, 0] = .ok (.encodeSpi ⟨1, 2, 3, 4⟩ [], []) := rfl

theorem test_decode_decByte : decode [0x13, 0x7E] = .ok (.decByte 0x7E, []) := rfl

theorem test_decode_decodeUart : decode [0x14, 1, 0x00, 0] = .ok (.decodeUart [0x00], []) := rfl

theorem test_decode_decodeSpi : decode [0x15, 0] = .ok (.decodeSpi [], []) := rfl

theorem test_decode_uartTrySend : decode [0x20, 1, 0x41, 0] = .ok (.uartTrySend [0x41], []) := rfl

theorem test_decode_uartPoll : decode [0x21] = .ok (.uartPoll, []) := rfl

theorem test_decode_uartTxByte : decode [0x22] = .ok (.uartTxByte, []) := rfl

theorem test_decode_uartRxByte : decode [0x28, 0x41] = .ok (.uartRxByte 0x41, []) := rfl

theorem test_decode_uartCtsSet : decode [0x29, 1] = .ok (.uartCtsSet true, []) := rfl

theorem test_decode_spiTrySend : decode [0x30, 1, 0x41, 0] = .ok (.spiTrySend [0x41], []) := rfl

theorem test_decode_spiPoll : decode [0x31] = .ok (.spiPoll, []) := rfl

theorem test_decode_spiCsAssert : decode [0x38] = .ok (.spiCsAssert, []) := rfl

theorem test_decode_spiXfer : decode [0x39, 0x55] = .ok (.spiXfer 0x55, []) := rfl

theorem test_decode_spiCsDeassert : decode [0x3A] = .ok (.spiCsDeassert, []) := rfl

theorem test_decode_reserved : decode [0x04] = .error (.reservedCode 0x04) ∧ decode [0xFF] = .error (.reservedCode 0xFF) :=
  ⟨rfl, rfl⟩

theorem test_decode_truncated : decode [0x10, 1, 0x31] = .error .truncated ∧ decode [0x13] = .error .truncated :=
  ⟨rfl, rfl⟩

theorem test_decode_bad_level : decode [0x29, 2] = .error .badOperand := rfl

/-- Every row's word as the host gives it: the code, and operand bytes of zero. -/
theorem test_table_words :
    [0x01, 0x02, 0x03, 0x10, 0x11, 0x12, 0x13, 0x14, 0x15, 0x20, 0x21, 0x22, 0x28, 0x29, 0x30, 0x31, 0x38, 0x39,
      0x3A].all (fun w => (decodeTableWord 8 w).map Instr.code == some (BitVec.ofNat 8 w)) = true := by decide

theorem test_fetch_word_runs :
    resultOf (step (State.reset.withFetchWord 8 0x10)) = some (.crc 0xFFFF) := by decide +kernel

theorem test_reset_faults_on_other_variant :
    faultOf (step (State.reset.withFetchWord 8 0x31)) = some (.wrongVariant 0) := by decide

/-! ## Script lines (30 R105) -/

theorem test_line_setup :
    readLine "SETUP RXQ=10 TXQ=10 MAX_PAYLOAD=64 EP_COUNT=4 SEQ_MOD=256 T_TXAV=1 T_CSA=2 T_CSD=2 T_DONE=4 => x".toList =
      some (.op (.setup (.spi ⟨common, 1, 2, 2, 4⟩))) := by decide +kernel

theorem test_line_hdr :
    readLine "ENCODE_UART (01, 01, 00, 00), [48 69] -- E1".toList =
      some (.op (.encodeUart ⟨1, 1, 0, 0⟩ [0x48, 0x69])) := by decide +kernel

theorem test_line_pseudo :
    readLine "SPI_TRANSACTION [00 04]".toList = some (.pseudo (.spiTransaction [0x00, 0x04])) := by decide +kernel

/-! ## One step of each operation -/

/-- G8: the first reason in the order of 43 R261. -/
theorem test_setup_first_reason :
    resultOf (exec (.setup (.uart { uartArg with common := { common with rxq := 0 }, baud := 0 }))
      (State.powerOn .uart 16)) = some (.cfgInvalid .badRxq) := by decide

/-- G9: T_DONE=16 of 16 trigger ids. -/
theorem test_setup_trigger_range :
    resultOf (exec (.setup (.spi { spiCfg common with tDone := 16 })) (State.powerOn .spi 16)) =
      some (.cfgInvalid .trigRange) := by decide

/-- G12. -/
theorem test_reset_keeps_pins_and_traces :
    uartOf (exec .reset (uartState { uartOn (uartCfg common .none 1450) with
      rxFifo := [1, 2, 3], ctsIn := true, wireTx := [0x41] } [[0x42]])) =
      some { mode := .unconfigured, txPos := 0, rxFifo := [], ctsIn := true, wireTx := [0x41] } := by decide

/-- G14. -/
theorem test_readStatus_power_on_spi :
    resultOf (exec .readStatus (State.powerOn .spi 16)) =
      some (.status
        { mode := .unconfigured, variant := .spi, cfg := .none, txQueueLen := 0, rxReady := false, decBufLen := 0
          decEsc := false, decBad := .none, cntTxFrames := 0, cntRxOverrun := 0
          adapter := .spi
            { csIn := false, xferActive := false, txLoaded := false, xferPos := 0, doneSent := false
              txAvailOut := false, rxQueueLen := 0, rxCurLen := 0, cntTxTruncated := 0, cntRxIdle := 0
              cntRxClipped := 0 } }) := by decide

/-- C5, the check value of the CRC. -/
theorem test_crc16_check_value :
    resultOf (exec (.crc16 [0x31, 0x32, 0x33, 0x34, 0x35, 0x36, 0x37, 0x38, 0x39]) State.reset) =
      some (.crc 0x29B1) := by decide +kernel

/-- E3: an escaped trailer byte. -/
theorem test_encodeUart_escapes_trailer :
    resultOf (exec (.encodeUart ⟨0, 2, 0, 1⟩ []) (spiState (spiOn (spiCfg common)) [])) =
      some (.bytes [0x00, 0x02, 0x00, 0x01, 0x00, 0x00, 0xA3, 0x7D, 0x5D, 0x7E]) := by decide +kernel

/-- EE4: the first reason in the order of 40 R132. -/
theorem test_encodeUart_first_reason :
    resultOf (exec (.encodeUart ⟨9, 0xFF, 0, 0⟩ (List.replicate 65 0)) (uartState (uartOn (uartCfg common .none 9)) [])) =
      some (.encErr .overlength) := by decide

/-- E2: nothing is escaped, and both 16-bit fields are little-endian. -/
theorem test_encodeSpi_content :
    resultOf (exec (.encodeSpi ⟨2, 3, 5, 3⟩ [0x7E, 0x7D, 0x00, 0xFF]) (spiState (spiOn (spiCfg common)) [])) =
      some (.bytes [0x02, 0x03, 0x05, 0x03, 0x04, 0x00, 0x7E, 0x7D, 0x00, 0xFF, 0xEC, 0xE0]) := by decide +kernel

/-- DU4, its last byte. -/
theorem test_decByte_flag_after_esc :
    resultOf (exec (.decByte 0x7E) (withDec (uartState (uartOn (uartCfg common .none 9)) []) ⟨[0x01], true, .none⟩)) =
      some (.dec (.verdict (.corrupt .badEscape))) := by decide

/-- DU11, its eleventh byte: the byte after FRAME_MAX marks the region and empties the buffer. -/
theorem test_decByte_overflow :
    (after (exec (.decByte 0x11) (withDec (uartState (uartOn (uartCfg small .none 9)) [])
      ⟨List.replicate 10 0x11, false, .none⟩))).map (·.block.dec) = some ⟨[], false, .overflow⟩ := by decide

/-- DD1. -/
theorem test_decodeUart_stops_at_first_result :
    resultOf (exec (.decodeUart [0xAA, 0xBB, 0x7E, 0x00, 0x02, 0x00, 0x01, 0x00, 0x00, 0xA3, 0x7D, 0x5D, 0x7E])
      (uartState (uartOn (uartCfg common .none 9)) [])) =
      some (.decCursor (.verdict (.corrupt .short)) 3) := by decide

/-- DD2. -/
theorem test_decodeUart_frame :
    resultOf (exec (.decodeUart [0x00, 0x02, 0x00, 0x01, 0x00, 0x00, 0xA3, 0x7D, 0x5D, 0x7E])
      (uartState (uartOn (uartCfg common .none 9)) [])) =
      some (.decCursor (.verdict (.frame ⟨⟨0, 2, 0, 1⟩, []⟩)) 10) := by decide +kernel

/-- S10: padding of any value is ignored. -/
theorem test_decodeSpi_ignores_padding :
    resultOf (exec (.decodeSpi (e1 ++ [0xFF, 0xFF])) (spiState (spiOn (spiCfg common)) [])) =
      some (.spiDec (.verdict (.frame ⟨⟨1, 1, 0, 0⟩, [0x48, 0x69]⟩))) := by decide +kernel

/-- A flip in the length field is SHORT by 40 R146 (log 15), not the CRC_MISMATCH of 40 R149. -/
theorem test_decodeSpi_length_flip :
    resultOf (exec (.decodeSpi (e1.set 4 0x06)) (spiState (spiOn (spiCfg common)) [])) =
      some (.spiDec (.verdict (.corrupt .short))) := by decide

/-- A2, the third call, with TXQ=1 and one frame queued. -/
theorem test_uartTrySend_busy :
    resultOf (exec (.uartTrySend [0x7E]) (uartState (uartOn (uartCfg small .none 9)) [[0x7E]])) = some .busy := by decide

/-- A5, with MAX_PAYLOAD=2: UART_ENC_MAX is 21. -/
theorem test_uartTrySend_length_bound :
    faultOf (exec (.uartTrySend (List.replicate 22 0)) (uartState (uartOn (uartCfg small .none 9)) [])) =
      some (.badFrameLen 0) ∧
    resultOf (exec (.uartTrySend (List.replicate 21 0)) (uartState (uartOn (uartCfg small .none 9)) [])) =
      some .sent := by decide

/-- A9. -/
theorem test_uartPoll_returns_everything :
    resultOf (exec .uartPoll (uartState { uartOn (uartCfg common .ctsRts 12) with rxFifo := [1, 2, 3] } [])) =
      some (.bytes [1, 2, 3]) := by decide

/-- A14, the first line. -/
theorem test_uartTxByte_sends :
    (after (exec .uartTxByte (uartState { uartOn (uartCfg common .ctsRts 9) with ctsIn := true }
      [[0x41, 0x42, 0x43]]))).map (fun t => (t.result, t.block.txQueue)) =
      some (.byteSent 0x41, [[0x41, 0x42, 0x43]]) := by decide

/-- A1: the line holds and the block is as it was. -/
theorem test_uartTxByte_holds :
    (after (exec .uartTxByte (uartState (uartOn (uartCfg common .ctsRts 9)) [e1Wire]))).map
      (fun t => (t.result, t.lineHeld, t.block == (uartState (uartOn (uartCfg common .ctsRts 9)) [e1Wire]).block)) =
      some (.held, true, true) := by decide

/-- K1: the counter wraps. -/
theorem test_uartRxByte_counter_wraps :
    (after (exec (.uartRxByte 0) { uartState (uartOn (uartCfg common .none 1)) [] with
      block := { Block.powerOn .uart 16 with
        adapter := .uart { uartOn (uartCfg common .none 1) with rxFifo := [0] }, cntRxOverrun := 0xFFFFFFFF } })).map
      (·.block.cntRxOverrun) = some 0 := by decide

/-- A8, the twelfth byte: `rts_out` falls. -/
theorem test_uartRxByte_last_room :
    (uartOf (exec (.uartRxByte 0x41) (uartState { uartOn (uartCfg common .ctsRts 12) with
      rxFifo := List.replicate 11 0 } []))).map (fun u => (u.rxFifo.length, rtsOut u)) = some (12, false) := by decide

/-- A12: the mirror follows the pin while UNCONFIGURED. -/
theorem test_uartCtsSet_unconfigured :
    (uartOf (exec (.uartCtsSet true) (State.powerOn .uart 16))).map (·.ctsIn) = some true := by decide

/-- P1, step 5: the line that held is enabled, and the run may end there. -/
theorem test_uartCtsSet_releases_line :
    (after (exec (.uartCtsSet true) ((uartState (uartOn (uartCfg common .ctsRts 9)) [e1Wire]).setHeld true))).map
      (fun t => (t.lineHeld, t.ended)) = some (false, true) ∧
    (after (exec (.uartCtsSet false) ((uartState (uartOn (uartCfg common .ctsRts 9)) [e1Wire]).setHeld true))).map
      (·.ended) = some false := by decide

/-- B1 and B2: one trigger for each rising edge. -/
theorem test_spiTrySend_rising_edge :
    (spiOf (exec (.spiTrySend e1) (spiState (spiOn (spiCfg common)) []))).map (fun p => (p.txAvailOut, p.trigOut)) =
      some (true, [1]) ∧
    (spiOf (exec (.spiTrySend e3) (spiState { spiOn (spiCfg common) with txAvailOut := true, trigOut := [1] } [e1]))).map
      (·.trigOut) = some [1] := by decide

/-- 42 R223: the oldest transaction. -/
theorem test_spiPoll_oldest :
    resultOf (exec .spiPoll (spiState { spiOn (spiCfg common) with rxQueue := [[1, 2], [3]] } [])) =
      some (.bytes [1, 2]) := by decide

/-- A13. -/
theorem test_spiPoll_on_uart : faultOf (exec .spiPoll (State.powerOn .uart 16)) = some (.wrongVariant 0) := by decide

/-- P3, step 4. -/
theorem test_spiCsAssert_starts :
    (spiOf (exec .spiCsAssert (spiState { spiOn (spiCfg common) with txAvailOut := true, trigOut := [1] } [e1]))).map
      (fun p => (p.trigOut, p.txAvailOut, p.txLoaded, p.csIn)) = some ([1, 2], false, true, true) := by decide

/-- A transaction with E1 loaded, `n` bytes in. -/
def inTransaction (n : Nat) : SpiState :=
  { spiOn (spiCfg common) with
    csIn := true, xferActive := true, txLoaded := true, xferPos := n, rxCur := List.replicate n 0, trigOut := [1, 2] }

/-- P3, the tenth SPI_XFER: the frame's last byte, and T_DONE. -/
theorem test_spiXfer_completes_frame :
    resultOf (exec (.spiXfer 0) (spiState (inTransaction 9) [e1])) = some (.miso 0x5A) ∧
    (spiOf (exec (.spiXfer 0) (spiState (inTransaction 9) [e1]))).map (fun p => (p.trigOut, p.doneSent)) =
      some ([1, 2, 4], true) := by decide

/-- B8, a byte past FRAME_MAX. -/
theorem test_spiXfer_clips :
    (spiOf (exec (.spiXfer 0x11) (spiState { spiOn (spiCfg small) with
      csIn := true, xferActive := true, xferPos := 10, rxCur := List.replicate 10 0x11 } []))).map
      (fun p => (p.rxCur.length, p.cntRxClipped)) = some (10, 1) := by decide

/-- P6, step 4, its release: the frame stays, T_CSD comes before T_TXAV. -/
theorem test_spiCsDeassert_truncates :
    (after (exec .spiCsDeassert (spiState (inTransaction 4) [e1]))).map (·.block.txQueue) = some [e1] ∧
    (spiOf (exec .spiCsDeassert (spiState (inTransaction 4) [e1]))).map
      (fun p => (p.trigOut, p.cntTxTruncated, p.cntRxIdle)) = some ([1, 2, 3, 1], 1, 1) := by decide

/-- B11, its release: no T_CSD, and T_TXAV by `upd_avail`. -/
theorem test_spiCsDeassert_ignored_selection :
    (spiOf (exec .spiCsDeassert (spiState { spiOn (spiCfg common) with csIn := true } [e1]))).map
      (fun p => (p.trigOut, p.txAvailOut)) = some ([1], true) := by decide

/-! ## Pseudo-operations (30 R106) -/

def resultsOf (x : Run) : Option (List Result) :=
  match x with
  | .next a => some a.2
  | _ => none

/-- R106: DECODE_UART runs on the bytes first, so on none it runs once, or faults. -/
theorem test_decodeAll_empty :
    resultsOf (runPseudo (.decodeAll []) (uartState (uartOn (uartCfg common .none 9)) [])) =
      some [.decCursor .needMoreData 0] ∧
    resultsOf (runPseudo (.decodeAll []) (State.powerOn .uart 16)) = none := by decide

/-- R106 with R140: two short regions, one after the other, and a byte that remains. -/
theorem test_decodeAll_runs_on :
    resultsOf (runPseudo (.decodeAll [0x41, 0x7E, 0x42, 0x7E, 0x43]) (uartState (uartOn (uartCfg common .none 9)) [])) =
      some [.decCursor (.verdict (.corrupt .short)) 2, .decCursor (.verdict (.corrupt .short)) 2,
        .decCursor .needMoreData 1] := by decide

/-- B4's shape: the result is the list of MISO bytes. -/
theorem test_spiTransaction_result :
    resultsOf (runPseudo (.spiTransaction [0x00, 0x04]) (spiState (spiOn (spiCfg common)) [])) =
      some [.miso 0, .miso 0] := by decide

/-! ## Witnesses: the hypotheses of each statement hold together somewhere -/

/-- A UART instance, configured, with one frame queued. -/
def uartBusy : State := uartState (uartOn (uartCfg small .none 9)) [[0x41, 0x7E]]

/-- An SPI instance, configured and deselected, with one frame queued. -/
def spiBusy : State := spiState { spiOn (spiCfg common) with txAvailOut := true } [e1]

/-- An SPI instance in a transaction. -/
def spiSelected : State := spiState (inTransaction 4) [e1]

/-- A UART instance with flow control, one byte of its FIFO free. -/
def uartFlow : State := uartState { uartOn (uartCfg small .ctsRts 2) with rxFifo := [1] } []

theorem legal_common : LegalCommon common := ⟨by decide, by decide, by decide, by decide, by decide⟩

theorem legal_small : LegalCommon small := ⟨by decide, by decide, by decide, by decide, by decide⟩

theorem decInv_init (n : Nat) : DecInv n Dec.init := ⟨Nat.zero_le n, fun _ => rfl, fun _ => rfl⟩

theorem uartBusy_inv : MachineInv uartBusy :=
  ⟨by decide, ⟨legal_small, by decide, by decide⟩, by decide,
    by show ∀ f ∈ [[(0x41 : Byte), 0x7E]], 1 ≤ f.length ∧ f.length ≤ 21; decide, by decide, by decide, by decide,
    decInv_init _⟩

theorem spiBusy_inv : MachineInv spiBusy :=
  ⟨by decide, ⟨legal_common, by decide, by decide⟩, by decide,
    by show ∀ f ∈ [e1], 1 ≤ f.length ∧ f.length ≤ 72; decide, by decide,
    by show ∀ f ∈ ([] : List (List Byte)), 1 ≤ f.length ∧ f.length ≤ 72; decide,
    by decide, by decide, by decide, by decide, by decide, by decide, decInv_init _⟩

theorem spiSelected_inv : MachineInv spiSelected :=
  ⟨by decide, ⟨legal_common, by decide, by decide⟩, by decide,
    by show ∀ f ∈ [e1], 1 ≤ f.length ∧ f.length ≤ 72; decide, by decide,
    by show ∀ f ∈ ([] : List (List Byte)), 1 ≤ f.length ∧ f.length ≤ 72; decide,
    by decide, by decide, by decide, by decide, by decide, by decide, decInv_init _⟩

theorem witness_EncodedOperationsDecodeToThemselves :
    (Instr.setup (.uart { uartArg with flow := .other 0xFF })).wellFormed = true := by decide

theorem witness_DecodedBytesAreTheEncoding : decode [0x29, 1, 0x55] = .ok (.uartCtsSet true, [0x55]) := rfl

/-- The first and the last code, and an operation of each adapter on an instance of the other. -/
theorem witness_ReservedCodesAreRefused :
    (0x00 : Byte) ∉ listedCodes ∧ (0xFF : Byte) ∉ listedCodes ∧ (0x3B : Byte) ∉ listedCodes ∧
    (Instr.uartPoll.variant? = some .uart ∧ .uart ≠ (State.powerOn .spi 16).block.variant) ∧
    (Instr.spiPoll.variant? = some .spi ∧ .spi ≠ (State.powerOn .uart 16).block.variant) := by decide

theorem witness_StepRunsDecodedOperation :
    decode [0x02, 0x04] = .ok (.reset, [0x04]) ∧ decode [] = .error .endOfScript := ⟨rfl, rfl⟩

/-- Each row of the checks at its bound, and each bound just inside. -/
theorem witness_SetupFollowsItsRules :
    uartBusy.block.modeName = .configured ∧ spiBusy.block.modeName = .configured ∧
    ((State.powerOn .uart 16).block.adapter = .uart UartState.powerOn ∧ UartState.powerOn.mode = .unconfigured) ∧
    firstOf (uartRows { uartArg with common := { common with epCount := 257 } }) = some .badEpCount ∧
    firstOf (uartRows { uartArg with common := { common with seqMod := 1 } }) = some .badSeqMod ∧
    firstOf (uartRows { uartArg with flow := .other 2 }) = some .badFlow ∧
    firstOf (uartRows { uartArg with urxf := some 0 }) = some .badRxFifo ∧
    firstOf (uartRows { uartArg with common := ⟨1, 1, 65535, 256, 2⟩, baud := 1, urxf := some 1 }) = none ∧
    ((State.powerOn .spi 16).block.adapter = .spi SpiState.powerOn ∧ SpiState.powerOn.mode = .unconfigured) ∧
    firstOf (spiRows 16 { spiCfg common with tDone := 16 }) = some .trigRange ∧
    firstOf (spiRows 16 { spiCfg common with tDone := 3 }) = some .trigDup ∧
    firstOf (spiRows 16 { spiCfg common with tDone := 15 }) = none := by decide

theorem witness_OnlyForeignRecordsAreRefused :
    (State.powerOn .spi 16).block.modeName = .unconfigured ∧
      recordOf (State.powerOn .spi 16).block.variant (.uart uartArg) = false := by decide

theorem witness_ResetReturnsToUnconfigured :
    uartBusy.block.adapter = .uart (uartOn (uartCfg small .none 9)) ∧ spiSelected.block.adapter = .spi (inTransaction 4) :=
  ⟨rfl, rfl⟩

theorem witness_ReadStatusReportsEveryField :
    uartFlow.block.adapter = .uart { uartOn (uartCfg small .ctsRts 2) with rxFifo := [1] } ∧
      spiSelected.block.adapter = .spi (inTransaction 4) := ⟨rfl, rfl⟩

theorem witness_ContentLayout : ([] : List Byte).length ≤ 65535 ∧ (List.replicate 65535 (0 : Byte)).length ≤ 65535 :=
  ⟨Nat.zero_le _, Nat.le_of_eq List.length_replicate⟩

theorem witness_UartFrameEndsInItsOnlyFlag : ([0x7E, 0x7D] : List Byte).length ≤ small.maxPayload := by decide

theorem witness_EncodeUartResult :
    uartBusy.block.common? = some small ∧ (State.powerOn .spi 16).block.common? = none ∧ firstOf (hdrRows small ⟨3, 31, 255, 255⟩ 2) = none ∧
      firstOf (hdrRows small ⟨3, 31, 255, 255⟩ 3) = some .overlength ∧
      firstOf (hdrRows small ⟨4, 32, 0, 0⟩ 2) = some .badEp ∧ firstOf (hdrRows small ⟨3, 32, 0, 0⟩ 2) = some .badFlags ∧
      firstOf (hdrRows { small with seqMod := 8 } ⟨3, 31, 7, 8⟩ 2) = some .badSeq := by decide

theorem witness_EncodeSpiResult :
    spiBusy.block.common? = some common ∧ (State.powerOn .uart 16).block.common? = none := by decide

theorem witness_ValidateReportsTheFirstFailure :
    (2 : Nat) = (e1.getD 4 0).toNat + 256 * (e1.getD 5 0).toNat := by decide

/-- A decoder state and a byte for each clause, and both sides of the buffer's bound. -/
theorem witness_DecByteFollowsItsFiveCases :
    uartBusy.block.common? = some small ∧ (State.powerOn .spi 16).block.common? = none ∧
    ((⟨[], false, .badEscape⟩ : Dec).bad = .badEscape ∧ (⟨[1], true, .none⟩ : Dec).bad = .none) ∧
    (⟨[], false, .overflow⟩ : Dec).bad = .overflow ∧ Dec.init.buf = [] ∧ (⟨[1], false, .none⟩ : Dec).buf ≠ [] ∧
    ((0x5C : Byte) ≠ 0x7E ∧ (0x5C : Byte) ≠ 0x5E ∧ (0x5C : Byte) ≠ 0x5D ∧ (0x5C : Byte) ≠ 0x7D) ∧
    ((⟨List.replicate 10 0, true, .none⟩ : Dec).buf.length = 8 + small.maxPayload ∧
      (⟨List.replicate 9 0, true, .none⟩ : Dec).buf.length ≠ 8 + small.maxPayload) := by decide

theorem witness_DecodeUartIsRepeatedDecByte :
    uartBusy.block.common? = some small ∧ (State.powerOn .spi 16).block.common? = none := by decide

/-- A transaction of each kind: all FILL, seven bytes, a length past MAX_PAYLOAD, one byte short, whole. -/
theorem witness_DecodeSpiResult :
    spiBusy.block.common? = some common ∧ (State.powerOn .uart 16).block.common? = none ∧
    (∀ x ∈ ([] : List Byte), x = 0) ∧ (e1.take 7).length < 8 ∧
    ((65 : Nat) = (([1, 1, 0, 0, 65, 0, 0, 0] : List Byte).getD 4 0).toNat +
        256 * (([1, 1, 0, 0, 65, 0, 0, 0] : List Byte).getD 5 0).toNat ∧ 65 > common.maxPayload) ∧
    ((e1.take 9).length < 8 + 2 ∧ ¬ e1.length < 8 + 2 ∧ ¬ ∀ x ∈ e1, x = 0) := by decide

theorem witness_NoFrameIsAllFill : ([0, 0] : List Byte).length ≤ 65535 := by decide

theorem witness_CodecNeedsConfiguration :
    (State.powerOn .uart 16).block.modeName = .unconfigured ∧ (State.powerOn .spi 16).block.modeName = .unconfigured := by
  decide

/-- The largest legal fields and the largest legal payload. -/
theorem legal_frame : LegalFrame small ⟨3, 31, 255, 255⟩ [0x7E, 0x7D] :=
  ⟨by decide, by decide, by decide, by decide, by decide⟩

theorem witness_CodecRoundTrip :
    uartBusy.block.common? = some small ∧ small.maxPayload ≤ 65535 ∧ LegalFrame small ⟨3, 31, 255, 255⟩ [0x7E, 0x7D] ∧
      uartBusy.block.dec = ⟨[], false, .none⟩ := ⟨by decide, by decide, legal_frame, rfl⟩

theorem witness_FlagResynchronisesTheDecoder :
    uartBusy.block.common? = some small ∧ small.maxPayload ≤ 65535 ∧ LegalFrame small ⟨3, 31, 255, 255⟩ [0x7E, 0x7D] :=
  ⟨by decide, by decide, legal_frame⟩

theorem witness_SingleBitErrorsAreDetected :
    uartBusy.block.common? = some small ∧ small.maxPayload ≤ 65535 ∧ LegalFrame small ⟨3, 31, 255, 255⟩ [0x7E, 0x7D] ∧
      9 < 8 + ([0x7E, 0x7D] : List Byte).length ∧ 7 < 8 ∧ uartBusy.block.dec = ⟨[], false, .none⟩ ∧ 9 ≠ 4 ∧ 9 ≠ 5 :=
  ⟨by decide, by decide, legal_frame, by decide, by decide, rfl, by decide, by decide⟩

theorem witness_UartTrySendResult :
    (State.powerOn .uart 16).block.adapter = .uart UartState.powerOn ∧ UartState.powerOn.mode = .unconfigured ∧
    uartBusy.block.adapter = .uart (uartOn (uartCfg small .none 9)) ∧
    (uartOn (uartCfg small .none 9)).mode = .configured (uartCfg small .none 9) ∧
    (List.replicate 22 (0 : Byte)).length > 2 * (8 + small.maxPayload) + 1 ∧
    (List.replicate 21 (0 : Byte)).length ≤ 2 * (8 + small.maxPayload) + 1 ∧
    uartBusy.block.txQueue.length = small.txq ∧ uartFlow.block.txQueue.length ≠ small.txq := by decide

theorem witness_UartPollResult :
    UartState.powerOn.mode = .unconfigured ∧ (uartOn (uartCfg small .none 9)).rxFifo = [] ∧
    ({ uartOn (uartCfg small .none 9) with rxFifo := [1] } : UartState).rxFifo ≠ [] ∧
    ((uartCfg small .ctsRts 1).flow = .ctsRts ∧ 1 ≤ (uartCfg small .ctsRts 1).urxf) := by decide

/-- Not the last byte of the frame, and the last byte. -/
theorem witness_UartTxByteSendsTheNextByte :
    uartBusy.block.adapter = .uart (uartOn (uartCfg small .none 9)) ∧
    (uartOn (uartCfg small .none 9)).mode = .configured (uartCfg small .none 9) ∧
    uartBusy.block.txQueue = [0x41, 0x7E] :: [] ∧ (uartCfg small .none 9).flow = .none ∧
    (([0x41, 0x7E] : List Byte)[0]? = some 0x41 ∧ 0 + 1 ≠ ([0x41, 0x7E] : List Byte).length) ∧
    (([0x41, 0x7E] : List Byte)[1]? = some 0x7E ∧ 1 + 1 = ([0x41, 0x7E] : List Byte).length) := by decide

theorem witness_UartTxByteHoldsWhileDisabled :
    UartState.powerOn.mode = .unconfigured ∧ uartFlow.block.txQueue = [] ∧
    ((uartOn (uartCfg small .ctsRts 2)).mode = .configured (uartCfg small .ctsRts 2) ∧
      (uartCfg small .ctsRts 2).flow = .ctsRts ∧ (uartOn (uartCfg small .ctsRts 2)).ctsIn = false) ∧
    (LineInv (uartFlow.setHeld true) ∧ ∃ t, exec (.uartCtsSet true) (uartFlow.setHeld true) = .next t) :=
  ⟨rfl, rfl, ⟨rfl, rfl, rfl⟩, fun _ => rfl, _, rfl⟩

/-- One byte of room, and none. -/
theorem witness_UartRxByteStoresOrCounts :
    UartState.powerOn.mode = .unconfigured ∧
    (uartOn (uartCfg small .none 1)).mode = .configured (uartCfg small .none 1) ∧
    (uartOn (uartCfg small .none 1)).rxFifo.length < (uartCfg small .none 1).urxf ∧
    ¬ ({ uartOn (uartCfg small .none 1) with rxFifo := [1] } : UartState).rxFifo.length < (uartCfg small .none 1).urxf := by
  decide

theorem witness_UartCtsSetMirrorsThePin : (State.powerOn .uart 16).block.adapter = .uart UartState.powerOn := rfl

theorem witness_RtsPromisesRoomForAByte :
    (uartCfg small .ctsRts 2).flow = .ctsRts ∧
    rtsOut { uartOn (uartCfg small .ctsRts 2) with rxFifo := [1] } = true ∧
    rtsOut { uartOn (uartCfg small .ctsRts 2) with rxFifo := [1, 2] } = false := by decide

/-- A frame accepted on a free queue, and a byte sent. -/
theorem witness_UartStreamIsConserved :
    MachineInv uartBusy ∧ (∃ t, exec .uartTxByte uartBusy = .next t) ∧ Instr.uartTxByte ≠ .reset ∧
      uartBusy.block.adapter = .uart (uartOn (uartCfg small .none 9)) := ⟨uartBusy_inv, ⟨_, rfl⟩, by simp, rfl⟩

/-- The state UART_TX_BYTE leads to, for the endless run of UART_TX_BYTE alone. -/
def txNext (s : State) : State := (after (exec .uartTxByte s)).getD s

def txRun (s : State) : Nat → State
  | 0 => s
  | n + 1 => txNext (txRun s n)

theorem txNext_uart {s : State} {v : Bool} (h : ∃ u, s.block.adapter = .uart u ∧ u.ctsIn = v) :
    exec .uartTxByte s = .next (txNext s) ∧ ∃ u, (txNext s).block.adapter = .uart u ∧ u.ctsIn = v := by
  obtain ⟨u, h, hv⟩ := h
  by_cases he : txEnabled s.block.txQueue u = true
  · simp only [exec, txNext, execUartTxByte, needUart, h, he, if_true, after, Option.getD_some, true_and]
    simp only [sendByte]
    split
    · exact ⟨_, rfl, hv⟩
    · exact ⟨_, rfl, hv⟩
  · simp only [exec, txNext, execUartTxByte, needUart, h, he, after]
    exact ⟨rfl, u, h, hv⟩

theorem txRun_uart {s : State} {v : Bool} (h : ∃ u, s.block.adapter = .uart u ∧ u.ctsIn = v) (n : Nat) :
    ∃ u, (txRun s n).block.adapter = .uart u ∧ u.ctsIn = v := by
  induction n with
  | zero => exact h
  | succ n ih => exact (txNext_uart ih).2

/-- A configured UART instance with CTS/RTS, CTS asserted and a frame queued. -/
def uartClear : State := uartState { uartOn (uartCfg small .ctsRts 9) with ctsIn := true } [[0x41, 0x7E]]

theorem uartClear_inv : MachineInv uartClear :=
  ⟨by decide, ⟨legal_small, by decide, by decide⟩, by decide,
    by show ∀ f ∈ [[(0x41 : Byte), 0x7E]], 1 ≤ f.length ∧ f.length ≤ 21; decide, by decide, by decide, by decide,
    decInv_init _⟩

/-- A run with flow control off, and one with CTS kept asserted. -/
theorem witness_FairRunsSendEveryAcceptedFrame :
    (∀ s ∈ [uartBusy, uartClear], EndlessRun (txRun s) (fun _ => .uartTxByte) ∧
      TxeFair (txRun s) (fun _ => .uartTxByte)) ∧
    (∀ m, 0 ≤ m → (fun _ => Instr.uartTxByte) m ≠ .reset) ∧
    (MachineInv (txRun uartBusy 0) ∧ (txRun uartBusy 0).block.adapter = .uart (uartOn (uartCfg small .none 9)) ∧
      (uartOn (uartCfg small .none 9)).mode = .configured (uartCfg small .none 9) ∧
      (uartCfg small .none 9).flow = .none) ∧
    (MachineInv (txRun uartClear 0) ∧
      (∃ u, (txRun uartClear 0).block.adapter = .uart u ∧ u.mode = .configured (uartCfg small .ctsRts 9)) ∧
      ∀ m, 0 ≤ m → ∃ v, (txRun uartClear m).block.adapter = .uart v ∧ v.ctsIn = true) := by
  refine ⟨fun s hs => ⟨fun n => ?_, fun n _ => ⟨n, Nat.le_refl n, rfl⟩⟩, by simp,
    ⟨uartBusy_inv, rfl, rfl, rfl⟩, uartClear_inv, ⟨_, rfl, rfl⟩, fun m _ => txRun_uart (v := true) ⟨_, rfl, rfl⟩ m⟩
  obtain rfl | rfl : s = uartBusy ∨ s = uartClear := by simpa using hs
  · exact (txNext_uart (txRun_uart ⟨_, rfl, rfl⟩ n)).1
  · exact (txNext_uart (txRun_uart ⟨_, rfl, rfl⟩ n)).1

theorem witness_DrainSendsEverything :
    MachineInv uartBusy ∧ uartBusy.block.adapter = .uart (uartOn (uartCfg small .none 9)) ∧
      (uartOn (uartCfg small .none 9)).mode = .configured (uartCfg small .none 9) ∧ (uartCfg small .none 9).flow = .none ∧
    (MachineInv uartClear ∧ ∃ u, uartClear.block.adapter = .uart u ∧ u.ctsIn = true) :=
  ⟨uartBusy_inv, rfl, rfl, rfl, uartClear_inv, _, rfl, rfl⟩

theorem witness_SpiTrySendResult :
    SpiState.powerOn.mode = .unconfigured ∧ spiSelected.block.adapter = .spi (inTransaction 4) ∧
    (inTransaction 4).mode = .configured (spiCfg common) ∧
    (List.replicate 73 (0 : Byte)).length > 8 + common.maxPayload ∧ e1.length ≤ 8 + common.maxPayload ∧
    spiSelected.block.txQueue.length ≠ common.txq ∧
    (spiState (spiOn (spiCfg small)) [e1]).block.txQueue.length = small.txq := by decide

theorem witness_SpiPollResult :
    SpiState.powerOn.mode = .unconfigured ∧ (spiOn (spiCfg common)).rxQueue = [] ∧
    ({ spiOn (spiCfg common) with rxQueue := [[1], [2]] } : SpiState).rxQueue = [1] :: [[2]] := by decide

theorem witness_SpiCsAssertStartsATransaction :
    (inTransaction 4).csIn = true ∧ (SpiState.powerOn.csIn = false ∧ SpiState.powerOn.mode = .unconfigured) ∧
    ((spiOn (spiCfg common)).csIn = false ∧ (spiOn (spiCfg common)).mode = .configured (spiCfg common)) := by decide

theorem witness_SpiXferExchangesAByte :
    spiSelected.block.adapter = .spi (inTransaction 4) ∧ (inTransaction 4).mode = .configured (spiCfg common) ∧
    (inTransaction 4).xferActive = true ∧ e1 = spiSelected.block.txQueue.headD [] := by decide

theorem witness_SpiXferUndrivenOutsideATransaction :
    spiBusy.block.adapter = .spi { spiOn (spiCfg common) with txAvailOut := true } ∧
      (spiOn (spiCfg common)).xferActive = false := ⟨rfl, rfl⟩

theorem witness_SpiCsDeassertEndsATransaction :
    spiSelected.block.adapter = .spi (inTransaction 4) ∧ (inTransaction 4).mode = .configured (spiCfg common) ∧
    (inTransaction 4).csIn = true ∧ (inTransaction 4).xferActive = true ∧ e1 = spiSelected.block.txQueue.headD [] ∧
    false = ((inTransaction 4).txLoaded && decide (e1.length ≤ (inTransaction 4).xferPos)) ∧
    true = ((inTransaction 4).txLoaded && decide ((inTransaction 4).xferPos < e1.length)) ∧
    true = decide (∀ x ∈ (inTransaction 4).rxCur, x = 0) ∧
    false = decide ((inTransaction 4).rxQueue.length = (spiCfg common).common.rxq) ∧
    [e1] = (if false then spiSelected.block.txQueue.tail else spiSelected.block.txQueue) := by decide

theorem witness_SpiCsDeassertOutsideATransaction :
    (spiOn (spiCfg common)).csIn = false ∧
    (({ SpiState.powerOn with csIn := true } : SpiState).xferActive = false ∧ SpiState.powerOn.mode = .unconfigured) ∧
    (({ spiOn (spiCfg common) with csIn := true } : SpiState).xferActive = false ∧
      (spiOn (spiCfg common)).mode = .configured (spiCfg common)) := by decide

theorem witness_SpiFramesAreNotLost :
    MachineInv spiSelected ∧ (∃ t, exec .spiCsDeassert spiSelected = .next t) ∧ Instr.spiCsDeassert ≠ .reset ∧
      spiSelected.block.adapter = .spi (inTransaction 4) := ⟨spiSelected_inv, ⟨_, rfl⟩, by simp, rfl⟩

theorem witness_LoadedFrameIsFixed :
    MachineInv spiSelected ∧ (∃ t, exec (.spiTrySend e3) spiSelected = .next t) ∧ Instr.spiTrySend e3 ≠ .reset ∧
      Instr.spiTrySend e3 ≠ .spiCsDeassert ∧ spiSelected.block.adapter = .spi (inTransaction 4) ∧
      (inTransaction 4).xferActive = true := ⟨spiSelected_inv, ⟨_, rfl⟩, by simp, by simp, rfl, rfl⟩

theorem witness_TriggersMarkTheirEvents :
    MachineInv spiSelected ∧ (∃ t, exec .spiCsDeassert spiSelected = .next t) ∧ Instr.spiCsDeassert ≠ .reset ∧
      spiSelected.block.adapter = .spi (inTransaction 4) ∧ (inTransaction 4).mode = .configured (spiCfg common) :=
  ⟨spiSelected_inv, ⟨_, rfl⟩, by simp, rfl, rfl⟩

theorem witness_TransactionDrivesTheLoadedFrame :
    MachineInv spiBusy ∧ spiBusy.block.adapter = .spi { spiOn (spiCfg common) with txAvailOut := true } ∧
      (spiOn (spiCfg common)).mode = .configured (spiCfg common) ∧ (spiOn (spiCfg common)).csIn = false ∧
      spiBusy.block.txQueue = e1 :: [] ∧ e1.length ≤ (List.replicate 10 (0 : Byte)).length ∧
      (List.replicate 9 (0 : Byte)).length < e1.length :=
  ⟨spiBusy_inv, rfl, rfl, rfl, rfl, by decide, by decide⟩

theorem witness_InvariantHoldsAtPowerOn : 0 < 1 := by decide

theorem witness_EveryStepKeepsTheInvariant :
    (MachineInv uartBusy ∧ ∃ t, exec .uartTxByte uartBusy = .next t) ∧
    (MachineInv (uartBusy.setScript [0x22]) ∧ ∃ t, step (uartBusy.setScript [0x22]) = .next t) ∧
    (LineInv (State.reset.setScript [0x22]) ∧ ∃ t, step (State.reset.setScript [0x22]) = .next t ∧ t.lineHeld = true) :=
  ⟨⟨uartBusy_inv, _, rfl⟩, ⟨uartBusy_inv, _, rfl⟩, ⟨fun h => absurd (show false = true from h) (by simp), _, rfl, rfl⟩⟩

/-- One case for each fault, at the bounds of the frame lengths, and the codes next to the listed ones. -/
theorem witness_FaultsAreExactlyTheTable :
    faultOf (exec .uartPoll (State.powerOn .spi 16)) = some (.wrongVariant 0) ∧
    faultOf (exec .uartPoll (State.powerOn .uart 16)) = some (.notConfigured 0) ∧
    faultOf (exec (.spiTrySend []) spiBusy) = some (.badFrameLen 0) ∧
    faultOf (exec (.spiTrySend (List.replicate 11 0)) (spiState (spiOn (spiCfg small)) [])) = some (.badFrameLen 0) ∧
    faultOf (exec (.spiTrySend (List.replicate 10 0)) (spiState (spiOn (spiCfg small)) [])) = none ∧
    (0x04 : Byte) ∉ listedCodes ∧ (0x40 : Byte) ∉ listedCodes := by decide

theorem witness_ResultsAreTheOperationsOwn :
    ∃ t, exec .uartTxByte (State.powerOn .uart 16) = .next t ∧ t.result = .held := ⟨_, rfl, rfl⟩

theorem witness_TracesOnlyGrow :
    (∃ t, exec .uartTxByte uartBusy = .next t) ∧ uartBusy.block.adapter = .uart (uartOn (uartCfg small .none 9)) ∧
    (∃ t, exec .spiCsDeassert spiSelected = .next t) ∧ spiSelected.block.adapter = .spi (inTransaction 4) :=
  ⟨⟨_, rfl⟩, rfl, ⟨_, rfl⟩, rfl⟩

/-- A SETUP that succeeds, a RESET, and an operation in between. -/
theorem witness_ModeMovesOnlyBySetupAndReset :
    (∃ t, exec (.setup (.uart uartArg)) (State.powerOn .uart 16) = .next t ∧
      (State.powerOn .uart 16).block.modeName = .unconfigured ∧ t.block.modeName = .configured) ∧
    (∃ t, exec .reset uartBusy = .next t ∧ uartBusy.block.modeName = .configured ∧
      t.block.modeName = .unconfigured) ∧
    (∃ t, exec .uartPoll uartBusy = .next t ∧ uartBusy.block.modeName = .configured ∧
      t.block.modeName = .configured) := ⟨⟨_, rfl, rfl, rfl⟩, ⟨_, rfl, rfl, rfl⟩, ⟨_, rfl, rfl, rfl⟩⟩

theorem witness_InstanceParametersNeverChange : ∃ t, exec .reset spiSelected = .next t := ⟨_, rfl⟩

theorem witness_MirrorsFollowOnlyTheirPins :
    (∃ t, exec (.uartCtsSet true) uartBusy = .next t) ∧ (∃ t, exec .uartPoll uartBusy = .next t) ∧
    uartBusy.block.adapter = .uart (uartOn (uartCfg small .none 9)) ∧
    (∃ t, exec .spiCsAssert spiSelected = .next t) ∧ (∃ t, exec .spiCsDeassert spiSelected = .next t) ∧
    (∃ t, exec .spiPoll spiSelected = .next t) ∧ spiSelected.block.adapter = .spi (inTransaction 4) :=
  ⟨⟨_, rfl⟩, ⟨_, rfl⟩, rfl, ⟨_, rfl⟩, ⟨_, rfl⟩, ⟨_, rfl⟩, rfl⟩

theorem witness_ReadsWriteOnlyWhatTheyMay :
    (∃ t, exec (.decodeSpi []) spiBusy = .next t) ∧ (∃ t, exec (.decByte 0x7D) uartBusy = .next t) ∧
    (∃ t t', exec .readStatus uartBusy = .next t ∧ exec .readStatus t = .next t') ∧
    (∃ t t', exec .uartPoll uartFlow = .next t ∧ exec .uartPoll t = .next t') :=
  ⟨⟨_, rfl⟩, ⟨_, rfl⟩, ⟨_, _, rfl, rfl⟩, ⟨_, _, rfl, rfl⟩⟩

/-- A counted frame, a lost byte, a clipped byte and a truncated, idle transaction, and the two operations that clear. -/
theorem witness_CountersMoveOnlyByTheirEvents :
    ((after (exec .uartTxByte (uartState { uartOn (uartCfg small .none 9) with txPos := 1 } [[0x41, 0x7E]]))).map
      (·.block.cntTxFrames) = some 1) ∧
    ((after (exec (.uartRxByte 3) (uartState { uartOn (uartCfg small .none 2) with rxFifo := [1, 2] } []))).map
      (·.block.cntRxOverrun) = some 1) ∧
    ((spiOf (exec .spiCsDeassert spiSelected)).map (fun p => (p.cntTxTruncated, p.cntRxIdle)) = some (1, 1)) ∧
    ((spiOf (exec (.spiXfer 1) (spiState { spiOn (spiCfg small) with
      csIn := true, xferActive := true, xferPos := 10, rxCur := List.replicate 10 0 } []))).map (·.cntRxClipped) =
      some 1) ∧
    resultOf (exec (.setup (.uart uartArg)) (State.powerOn .uart 16)) = some .cfgOk ∧
    resultOf (exec .reset spiSelected) = some .noResult := by decide

theorem witness_DecoderIsWrittenOnlyByItsOperations :
    (after (exec (.decByte 0x7D) uartBusy)).map (·.block.dec) = some ⟨[], true, .none⟩ ∧
    uartBusy.block.dec ≠ ⟨[], true, .none⟩ ∧
    resultOf (exec (.setup (.uart uartArg)) (State.powerOn .uart 16)) = some .cfgOk := by decide

/-- A frame of the least and of the greatest length. -/
theorem witness_ConfiguredOperationsAlwaysComplete :
    spiBusy.block.common? = some common ∧ onVariant (.spiTrySend [0]) spiBusy.block ∧
    ¬ badLength (.spiTrySend [0]) common ∧ ¬ badLength (.spiTrySend (List.replicate 72 0)) common :=
  ⟨rfl, Or.inr rfl, by simp [badLength, common], by simp [badLength, common]⟩

end Sys2Proof.Tests
end

section
/-! The step on a script that decodes to no operation, and the two instance parameters (00_scope R3, R8) through every
operation: the variant is read off the adapter's constructor, which no operation exchanges, and TRIG_NS is a field no
update names. -/

namespace Sys2Proof.Machine

/-! ## The step -/

theorem step_of_decode_error {s : State} {e : DecodeError} (h : decode s.script = .error e) :
    step s = .refused (.undecodable e) := by
  simp [step, fetch, h]

/-- Settles O6: the step is `exec` after a fetch, and the fetch either moves the script or is the refusal. -/
theorem stepRunsDecodedOperation : Obligations.StepRunsDecodedOperation :=
  ⟨fun _ _ _ h => step_of_decode h, fun _ _ h => step_of_decode_error h⟩

/-! ## The variant after each named update -/

theorem variant_of_uart {b : Block} {u : UartState} (h : b.adapter = .uart u) : b.variant = .uart := by
  simp [Block.variant, h]

theorem variant_of_spi {b : Block} {p : SpiState} (h : b.adapter = .spi p) : b.variant = .spi := by
  simp [Block.variant, h]

@[simp] theorem Block.setUart_variant (b : Block) (u : UartState) : (b.setUart u).variant = .uart := rfl
@[simp] theorem Block.setSpi_variant (b : Block) (p : SpiState) : (b.setSpi p).variant = .spi := rfl
@[simp] theorem Block.setTxQueue_variant (b : Block) (q : List (List Byte)) :
    (b.setTxQueue q).variant = b.variant := rfl
@[simp] theorem Block.setDec_variant (b : Block) (d : Dec) : (b.setDec d).variant = b.variant := rfl
@[simp] theorem Block.cleared_uart_variant (b : Block) (u : UartState) : (b.cleared (.uart u)).variant = .uart := rfl
@[simp] theorem Block.cleared_spi_variant (b : Block) (p : SpiState) : (b.cleared (.spi p)).variant = .spi := rfl

@[simp] theorem sendByte_variant (b : Block) (u : UartState) : (sendByte b u).1.variant = .uart := by
  by_cases h : u.txPos + 1 = (headFrame b.txQueue).length
  · rw [sendByte_last h]; rfl
  · rw [sendByte_more h]; rfl

@[simp] theorem sendByte_trigNs (b : Block) (u : UartState) : (sendByte b u).1.trigNs = b.trigNs := by
  by_cases h : u.txPos + 1 = (headFrame b.txQueue).length
  · rw [sendByte_last h]
  · rw [sendByte_more h]

@[simp] theorem endTransaction_variant (c : SpiCfg) (b : Block) (p : SpiState) :
    (endTransaction c b p).variant = .spi := by
  rw [endTransaction_eq]; rfl

@[simp] theorem endTransaction_trigNs (c : SpiCfg) (b : Block) (p : SpiState) :
    (endTransaction c b p).trigNs = b.trigNs := by
  rw [endTransaction_eq]

/-! ## The parameters through every operation -/

/-- Two blocks of instances with the same parameters. -/
def SameParameters (b b' : Block) : Prop := b'.variant = b.variant ∧ b'.trigNs = b.trigNs

theorem UartEffect.sameParameters {s : State} {u : UartState} {i : Instr} {b : Block} {r : Result}
    (ha : s.block.adapter = .uart u) (e : UartEffect s u i b r) : SameParameters s.block b := by
  have hv := variant_of_uart ha
  cases e with
  | same | rxLost => exact ⟨rfl, rfl⟩
  | decByte | decodeUart | trySend => exact ⟨by simp, by simp⟩
  | setup | reset | poll | txByte | rxByte | ctsSet => exact ⟨by simp [hv], by simp⟩

theorem SpiEffect.sameParameters {s : State} {p : SpiState} {i : Instr} {b : Block} {r : Result}
    (ha : s.block.adapter = .spi p) (e : SpiEffect s p i b r) : SameParameters s.block b := by
  have hv := variant_of_spi ha
  cases e with
  | same | assertAgain | releaseAgain => exact ⟨rfl, rfl⟩
  | decByte | decodeUart => exact ⟨by simp, by simp⟩
  | setup | reset | trySend | poll | select | start | exchange | finish | release | deselect =>
    exact ⟨by simp [hv], by simp⟩

theorem exec_sameParameters {i : Instr} {s t : State} (h : exec i s = .next t) :
    SameParameters s.block t.block := by
  cases ha : s.block.adapter with
  | uart u =>
    obtain ⟨b, r, rfl, e⟩ := exec_uart_eq_next ha h
    exact e.sameParameters ha
  | spi p =>
    obtain ⟨b, r, rfl, e⟩ := exec_spi_eq_next ha h
    exact e.sameParameters ha

theorem powerOn_variant (v : Variant) (n : Nat) : (State.powerOn v n).block.variant = v := by
  cases v <;> rfl

/-- Settles O55: power-on has the parameters it is given, and no operation's effect, on either variant, moves them. -/
theorem instanceParametersNeverChange : Obligations.InstanceParametersNeverChange :=
  ⟨fun v n => ⟨powerOn_variant v n, rfl⟩, fun _ _ _ h => exec_sameParameters h⟩

end Sys2Proof.Machine
end

section
/-! What an answered operation did, as the effect of its variant on the next state's own block and result, and the parts
of the larger effects that more than one invariant reads. -/

namespace Sys2Proof.Machine

open Sys2Proof.Safety

theorem exec_uartEffect {i : Instr} {s t : State} {u : UartState} (ha : s.block.adapter = .uart u)
    (h : exec i s = .next t) : UartEffect s u i t.block t.result := by
  obtain ⟨b, r, rfl, e⟩ := exec_uart_eq_next ha h
  exact e

theorem exec_spiEffect {i : Instr} {s t : State} {p : SpiState} (ha : s.block.adapter = .spi p)
    (h : exec i s = .next t) : SpiEffect s p i t.block t.result := by
  obtain ⟨b, r, rfl, e⟩ := exec_spi_eq_next ha h
  exact e

/-! ## One byte sent (41 R184) -/

theorem sendByte_adapter (b : Block) (u : UartState) :
    ∃ n, (sendByte b u).1.adapter =
      .uart { u with txPos := n, wireTx := u.wireTx ++ [byteAt (headFrame b.txQueue) u.txPos] } := by
  by_cases h : u.txPos + 1 = (headFrame b.txQueue).length
  · exact ⟨0, by rw [sendByte_last h]⟩
  · exact ⟨u.txPos + 1, by rw [sendByte_more h]⟩

@[simp] theorem sendByte_dec (b : Block) (u : UartState) : (sendByte b u).1.dec = b.dec := by
  by_cases h : u.txPos + 1 = (headFrame b.txQueue).length
  · rw [sendByte_last h]
  · rw [sendByte_more h]

@[simp] theorem sendByte_cntRxOverrun (b : Block) (u : UartState) :
    (sendByte b u).1.cntRxOverrun = b.cntRxOverrun := by
  by_cases h : u.txPos + 1 = (headFrame b.txQueue).length
  · rw [sendByte_last h]
  · rw [sendByte_more h]

theorem sendByte_cntTxFrames (b : Block) (u : UartState) :
    (sendByte b u).1.cntTxFrames =
      if u.txPos + 1 = (headFrame b.txQueue).length then bump b.cntTxFrames else b.cntTxFrames := by
  by_cases h : u.txPos + 1 = (headFrame b.txQueue).length
  · rw [sendByte_last h, if_pos h]
  · rw [sendByte_more h, if_neg h]

/-! ## Where UART_TX_BYTE has a step (41 R183) -/

theorem txEnabled_of_uart {b : Block} {u : UartState} (ha : b.adapter = .uart u) :
    b.txEnabled = txEnabled b.txQueue u := by simp [Block.txEnabled, ha]

theorem txEnabled_eq_false_of_spi {b : Block} (h : b.variant = .spi) : b.txEnabled = false := by
  unfold Block.variant at h
  unfold Block.txEnabled
  cases ha : b.adapter with
  | uart u => simp [ha] at h
  | spi p => rfl

theorem txEnabled_nil_queue (u : UartState) : txEnabled [] u = false := by
  unfold txEnabled
  split <;> rfl

theorem configured_of_txEnabled {q : List (List Byte)} {u : UartState} (h : txEnabled q u = true) :
    ∃ c, u.mode = .configured c ∧ q ≠ [] := by
  cases hm : u.mode with
  | unconfigured => simp [txEnabled, hm] at h
  | configured c => exact ⟨c, rfl, by rintro rfl; simp [txEnabled_nil_queue] at h⟩

/-! ## One byte exchanged, and the end of a transaction (42 R226, R229) -/

@[simp] theorem exchangeByte_mode (c : SpiCfg) (q : List (List Byte)) (m : Byte) (p : SpiState) :
    (exchangeByte c q m p).mode = p.mode := by
  rw [exchangeByte_eq]

@[simp] theorem endTransaction_dec (c : SpiCfg) (b : Block) (p : SpiState) : (endTransaction c b p).dec = b.dec := by
  rw [endTransaction_eq]

/-! ## What SETUP and RESET leave (43 R262, R263) -/

theorem Block.cleared_blockCleared (b : Block) (a : Adapter) : BlockCleared (b.cleared a) := ⟨rfl, rfl, rfl, rfl⟩

theorem SpiState.cleared_spiCleared (p : SpiState) (m : Mode SpiCfg) : SpiCleared (p.cleared m) :=
  ⟨rfl, rfl, rfl, rfl, rfl, rfl, rfl, rfl, rfl, rfl⟩

theorem UartEffect.cleared {s : State} {u : UartState} {i : Instr} {b : Block} {r : Result}
    (e : UartEffect s u i b r) (h : i = .reset ∨ r = .cfgOk) : BlockCleared b := by
  cases e with
  | setup | reset => exact Block.cleared_blockCleared _ _
  | same hi _ ok => exact absurd h (by simp [hi, ok])
  | decByte | decodeUart | trySend | poll | txByte | rxByte | rxLost | ctsSet => simp at h

theorem SpiEffect.cleared {s : State} {p : SpiState} {i : Instr} {b : Block} {r : Result}
    (e : SpiEffect s p i b r) (h : i = .reset ∨ r = .cfgOk) :
    BlockCleared b ∧ ∃ p', b.adapter = .spi p' ∧ SpiCleared p' := by
  cases e with
  | setup | reset => exact ⟨Block.cleared_blockCleared _ _, _, rfl, SpiState.cleared_spiCleared _ _⟩
  | same hi _ _ ok => exact absurd h (by simp [hi, ok])
  | decByte | decodeUart | trySend | poll | assertAgain | select | start | exchange | releaseAgain | finish | release
    | deselect => simp at h

end Sys2Proof.Machine
end

section
/-! The invariant of the parts an operation writes (the queues, the record, the decoder), then of a running block of
each variant after each operation that writes it (10_state R25 to R39, R44). -/

namespace Sys2Proof.Safety

open Sys2Proof.Machine

/-! ## Queues of frames -/

theorem framesWithin_nil (n : Nat) : FramesWithin n [] := by simp [FramesWithin]

theorem FramesWithin.enqueue {n : Nat} {q : List (List Byte)} {f : List Byte} (h : FramesWithin n q)
    (h1 : 1 ≤ f.length) (h2 : f.length ≤ n) : FramesWithin n (enq q f) := by
  intro g hg
  obtain hg | rfl : g ∈ q ∨ g = f := by simpa [enq] using hg
  · exact h g hg
  · exact ⟨h1, h2⟩

theorem FramesWithin.dequeue {n : Nat} {q : List (List Byte)} (h : FramesWithin n q) : FramesWithin n (deq q) :=
  fun f hf => h f (List.mem_of_mem_tail hf)

theorem FramesWithin.of_cons {n : Nat} {f : List Byte} {q : List (List Byte)} (h : FramesWithin n (f :: q)) :
    FramesWithin n q := h.dequeue

theorem FramesWithin.headFrame_pos {n : Nat} {q : List (List Byte)} (h : FramesWithin n q) (hq : q ≠ []) :
    0 < (headFrame q).length := by
  cases q with
  | nil => exact absurd rfl hq
  | cons f q => exact (h f (by simp)).1

theorem enq_ne_nil {α : Type} (q : List α) (x : α) : enq q x ≠ [] := by simp [enq]

theorem deq_length_le {α : Type} (q : List α) : (deq q).length ≤ q.length := by simp [deq]

/-! ## Records that SETUP accepts are legal (43 R261) -/

theorem legalCommon_of_check {c : CommonCfg} (h : checkCommon c = none) : LegalCommon c := by
  unfold checkCommon at h
  split_ifs at h with rxq txq payload ep seq
  exact ⟨by omega, by omega, by omega, by omega, by omega⟩

theorem legalUart_of_check {a : UartCfgArg} {c : UartCfg} (h : checkUart a = .ok c) : LegalUart c := by
  unfold checkUart at h
  split at h
  · cases h
  · rename_i hc
    split at h
    · cases h
    · rename_i hbaud
      split at h
      · cases h
      · split at h
        · cases h
        · rename_i hurxf
          cases h
          exact ⟨legalCommon_of_check hc, Nat.not_lt.1 hbaud, Nat.not_lt.1 hurxf⟩

theorem legalSpi_of_check {n : Nat} {a c : SpiCfg} (h : checkSpi n a = .ok c) : LegalSpi n c := by
  unfold checkSpi at h
  split at h
  · cases h
  · rename_i hc
    split_ifs at h with range nodup
    cases h
    exact ⟨legalCommon_of_check hc, by simpa using range, nodup⟩

/-! ## The stream decoder (40 R139 to R145) -/

theorem decInv_init (n : Nat) : DecInv n Dec.init := ⟨Nat.zero_le _, fun _ => rfl, fun _ => rfl⟩

theorem decInv_appendData {c : CommonCfg} {d : Dec} (h : DecInv (frameMaxOf c.maxPayload) d) (hb : d.bad = .none)
    (he : d.esc = false) (x : Byte) : DecInv (frameMaxOf c.maxPayload) (appendData c d x) := by
  have hlen := h.buf
  unfold appendData
  split
  · exact ⟨Nat.zero_le _, fun _ => he, fun _ => rfl⟩
  · refine ⟨?_, fun _ => he, fun ho => ?_⟩
    · simp only [List.length_append, List.length_singleton]
      omega
    · simp [hb] at ho

theorem decInv_decStep {c : CommonCfg} {d : Dec} (h : DecInv (frameMaxOf c.maxPayload) d) (x : Byte) :
    DecInv (frameMaxOf c.maxPayload) (decStep c d x).1 := by
  unfold decStep
  split
  · exact decInv_init _
  · split
    · exact h
    · rename_i hb
      replace hb : d.bad = .none := by simpa using hb
      split
      · split
        · exact decInv_appendData (d := { d with esc := false }) ⟨h.buf, fun _ => rfl, h.overflow⟩ hb rfl _
        · exact ⟨h.buf, fun _ => rfl, by simp⟩
      · rename_i he
        split
        · exact ⟨h.buf, fun hm => absurd hb hm, h.overflow⟩
        · exact decInv_appendData h hb (by simpa using he) x

theorem decInv_decodeStream {c : CommonCfg} (data : List Byte) {d : Dec} (h : DecInv (frameMaxOf c.maxPayload) d) :
    DecInv (frameMaxOf c.maxPayload) (decodeStream c d data).1 := by
  induction data generalizing d with
  | nil => exact h
  | cons x data ih =>
    have hx := decInv_decStep h x
    unfold decodeStream
    split
    · rename_i hd
      rw [hd] at hx
      exact ih hx
    · rename_i hd
      rwa [hd] at hx

/-! ## The invariant by variant and mode -/

theorem blockInv_uart {b : Block} {u : UartState} (ha : b.adapter = .uart u) :
    BlockInv b ↔ 0 < b.trigNs ∧ UartInv b u := by simp [BlockInv, ha]

theorem blockInv_spi {b : Block} {p : SpiState} (ha : b.adapter = .spi p) :
    BlockInv b ↔ 0 < b.trigNs ∧ SpiInv b p := by simp [BlockInv, ha]

theorem uartInv_configured {b : Block} {u : UartState} {c : UartCfg} (hm : u.mode = .configured c) :
    UartInv b u ↔ UartRunning c b u := by simp [UartInv, hm]

theorem uartInv_unconfigured {b : Block} {u : UartState} (hm : u.mode = .unconfigured) :
    UartInv b u ↔ BlockCleared b ∧ u.txPos = 0 ∧ u.rxFifo = [] := by simp [UartInv, hm]

theorem spiInv_configured {b : Block} {p : SpiState} {c : SpiCfg} (hm : p.mode = .configured c) :
    SpiInv b p ↔ SpiRunning c b p := by simp [SpiInv, hm]

theorem spiInv_unconfigured {b : Block} {p : SpiState} (hm : p.mode = .unconfigured) :
    SpiInv b p ↔ BlockCleared b ∧ SpiCleared p := by simp [SpiInv, hm]

theorem blockInv_of_uartRunning {b : Block} {u : UartState} {c : UartCfg} (ha : b.adapter = .uart u)
    (hm : u.mode = .configured c) (hns : 0 < b.trigNs) (h : UartRunning c b u) : BlockInv b :=
  (blockInv_uart ha).2 ⟨hns, (uartInv_configured hm).2 h⟩

theorem blockInv_of_spiRunning {b : Block} {p : SpiState} {c : SpiCfg} (ha : b.adapter = .spi p)
    (hm : p.mode = .configured c) (hns : 0 < b.trigNs) (h : SpiRunning c b p) : BlockInv b :=
  (blockInv_spi ha).2 ⟨hns, (spiInv_configured hm).2 h⟩

theorem blockInv_of_uartCleared {b : Block} {u : UartState} (ha : b.adapter = .uart u) (hm : u.mode = .unconfigured)
    (hns : 0 < b.trigNs) (hb : BlockCleared b) (hpos : u.txPos = 0) (hrx : u.rxFifo = []) : BlockInv b :=
  (blockInv_uart ha).2 ⟨hns, (uartInv_unconfigured hm).2 ⟨hb, hpos, hrx⟩⟩

theorem blockInv_of_spiCleared {b : Block} {p : SpiState} (ha : b.adapter = .spi p) (hm : p.mode = .unconfigured)
    (hns : 0 < b.trigNs) (hb : BlockCleared b) (hp : SpiCleared p) : BlockInv b :=
  (blockInv_spi ha).2 ⟨hns, (spiInv_unconfigured hm).2 ⟨hb, hp⟩⟩

/-! ## A running UART block (10 R25 to R27) -/

section
variable {c : UartCfg} {b : Block} {u : UartState}

theorem uartRunning_cleared (b : Block) (u : UartState) (legal : LegalUart c) :
    UartRunning c (b.cleared (.uart (u.cleared (.configured c)))) (u.cleared (.configured c)) where
  legal := legal
  txLength := Nat.zero_le _
  frames := framesWithin_nil _
  posEmpty _ := rfl
  posHead h := absurd rfl h
  fifo := Nat.zero_le _
  dec := decInv_init _

theorem UartRunning.enqueue (h : UartRunning c b u) {f : List Byte} (h1 : 1 ≤ f.length)
    (h2 : f.length ≤ uartEncMaxOf c.common.maxPayload) (room : b.txQueue.length ≠ c.common.txq) :
    UartRunning c (b.setTxQueue (enq b.txQueue f)) u where
  legal := h.legal
  txLength := by
    have := h.txLength
    simp only [Block.setTxQueue_txQueue, enq_length]
    omega
  frames := h.frames.enqueue h1 h2
  posEmpty he := absurd he (enq_ne_nil _ _)
  posHead _ := by
    by_cases hq : b.txQueue = []
    · simpa [hq, enq, h.posEmpty hq] using Nat.lt_of_lt_of_le Nat.one_pos h1
    · simpa [headFrame_enq hq] using h.posHead hq
  fifo := h.fifo
  dec := h.dec

/-- A queue that enables UART_TX_BYTE has a head frame, so a position moved on is still inside it. -/
theorem UartRunning.sendHead (h : UartRunning c b u) (hq : b.txQueue ≠ []) :
    ∃ u', (sendByte b u).1.adapter = .uart u' ∧ u'.mode = u.mode ∧ UartRunning c (sendByte b u).1 u' := by
  have hpos := h.posHead hq
  by_cases hl : u.txPos + 1 = (headFrame b.txQueue).length
  · rw [sendByte_last hl]
    refine ⟨_, rfl, rfl, { h with
      txLength := (deq_length_le _).trans h.txLength
      frames := h.frames.dequeue
      posEmpty := fun _ => rfl
      posHead := h.frames.dequeue.headFrame_pos }⟩
  · rw [sendByte_more hl]
    refine ⟨_, rfl, rfl, { h with
      posEmpty := fun he => absurd he hq
      posHead := fun _ => ?_ }⟩
    change u.txPos + 1 < (headFrame b.txQueue).length
    omega

end

/-! ## A running SPI block (10 R28 to R34) -/

section
variable {c : SpiCfg} {b : Block} {p : SpiState}

theorem spiRunning_cleared (b : Block) (p : SpiState) (legal : LegalSpi b.trigNs c) :
    SpiRunning c (b.cleared (.spi (p.cleared (.configured c)))) (p.cleared (.configured c)) where
  legal := legal
  txLength := Nat.zero_le _
  frames := framesWithin_nil _
  rxLength := Nat.zero_le _
  rxFrames := framesWithin_nil _
  rxCur := by simp
  selected h := absurd h (by simp)
  outside _ := ⟨rfl, rfl, rfl⟩
  loaded h := absurd h (by simp)
  doneSent := by simp
  available := rfl
  dec := decInv_init _

/-- The head frame a transaction drives stays the head, so T_DONE keeps its meaning. -/
theorem SpiRunning.enqueue (h : SpiRunning c b p) {f : List Byte} (h1 : 1 ≤ f.length)
    (h2 : f.length ≤ frameMaxOf c.common.maxPayload) (room : b.txQueue.length ≠ c.common.txq) :
    SpiRunning c ((b.setTxQueue (enq b.txQueue f)).setSpi (updAvail c (enq b.txQueue f) p))
      (updAvail c (enq b.txQueue f) p) :=
  { h with
    txLength := by
      have := h.txLength
      simp only [Block.setSpi_txQueue, Block.setTxQueue_txQueue, enq_length]
      omega
    frames := h.frames.enqueue h1 h2
    loaded := fun _ => enq_ne_nil _ _
    doneSent := by
      by_cases hl : p.txLoaded = true
      · simpa [headFrame_enq (h.loaded hl)] using h.doneSent
      · simpa [hl] using h.doneSent
    available := rfl }

theorem SpiRunning.poll (h : SpiRunning c b p) {d : List Byte} {q : List (List Byte)} (hr : p.rxQueue = d :: q) :
    SpiRunning c (b.setSpi { p with rxQueue := q }) { p with rxQueue := q } :=
  { h with
    rxLength := by
      have := h.rxLength
      rw [hr, List.length_cons] at this
      dsimp only
      omega
    rxFrames := (hr ▸ h.rxFrames).of_cons }

theorem SpiRunning.start (h : SpiRunning c b p) :
    SpiRunning c (b.setSpi (startTransaction c b.txQueue p)) (startTransaction c b.txQueue p) :=
  { h with
    rxCur := by simp [startTransaction]
    selected := fun _ => rfl
    outside := fun hx => absurd hx (by simp [startTransaction])
    loaded := fun hl => by simpa [startTransaction] using hl
    doneSent := by
      by_cases hq : b.txQueue = []
      · simp [startTransaction, hq]
      · have hpos := h.frames.headFrame_pos hq
        simpa [startTransaction, hq] using List.ne_nil_of_length_pos hpos
    available := rfl }

/-- The position moves by one, so it reaches the end of the head frame exactly where T_DONE is sent. -/
theorem SpiRunning.exchange (h : SpiRunning c b p) (hx : p.xferActive = true) (m : Byte) :
    SpiRunning c (b.setSpi (exchangeByte c b.txQueue m p)) (exchangeByte c b.txQueue m p) := by
  have hcur := h.rxCur
  have hdone := h.doneSent
  rw [exchangeByte_eq]
  exact { h with
    rxCur := by
      dsimp only
      split
      · simp only [List.length_append, List.length_singleton]
        omega
      · omega
    outside := fun hx' => absurd hx (by simpa using hx')
    doneSent := by
      simp only [Bool.or_eq_true, Bool.and_eq_true, decide_eq_true_eq, hdone, Block.setSpi_txQueue, ← and_or_left]
      exact and_congr_right fun _ => by omega }

theorem queueAfter_length_le (b : Block) (p : SpiState) : (queueAfter b p).length ≤ b.txQueue.length := by
  unfold queueAfter
  split
  · exact deq_length_le _
  · exact le_rfl

theorem FramesWithin.queueAfter {n : Nat} {b : Block} (h : FramesWithin n b.txQueue) (p : SpiState) :
    FramesWithin n (queueAfter b p) := by
  unfold Machine.queueAfter
  split
  · exact h.dequeue
  · exact h

/-- A transaction that is kept is not all FILL, so it is not empty. -/
theorem one_le_length_of_allFill_eq_false {s : List Byte} (h : allFill s = false) : 1 ≤ s.length := by
  cases s with
  | nil => simp [allFill] at h
  | cons x s => simp

theorem SpiRunning.finish (h : SpiRunning c b p) :
    ∃ p', (endTransaction c b p).adapter = .spi p' ∧ p'.mode = p.mode ∧ SpiRunning c (endTransaction c b p) p' := by
  have hcur := h.rxCur
  have hrx := h.rxLength
  rw [endTransaction_eq]
  exact ⟨_, rfl, rfl, { h with
    txLength := (queueAfter_length_le b p).trans h.txLength
    frames := h.frames.queueAfter p
    rxLength := by
      dsimp only
      split
      · rename_i hk
        simp only [Bool.and_eq_true, Bool.not_eq_true', decide_eq_false_iff_not] at hk
        simp only [List.length_append, List.length_singleton]
        omega
      · exact hrx
    rxFrames := by
      dsimp only
      split
      · rename_i hk
        simp only [Bool.and_eq_true, Bool.not_eq_true'] at hk
        exact h.rxFrames.enqueue (one_le_length_of_allFill_eq_false hk.1) (by omega)
      · exact h.rxFrames
    rxCur := by simp
    selected := fun hx => absurd hx (by simp)
    outside := fun _ => ⟨rfl, rfl, rfl⟩
    loaded := fun hl => absurd hl (by simp)
    doneSent := by simp
    available := by simp [availLevel] }⟩

theorem SpiRunning.release (h : SpiRunning c b p) (hx : p.xferActive = false) :
    SpiRunning c (b.setSpi (updAvail c b.txQueue { p with csIn := false }))
      (updAvail c b.txQueue { p with csIn := false }) :=
  { h with
    selected := fun hx' => absurd hx' (by simp [hx])
    available := rfl }

end

end Sys2Proof.Safety
end

section
/-! Every effect, and so every operation and every step, keeps the invariant, and the line's (log 6). -/

namespace Sys2Proof.Machine

open Sys2Proof.Safety

/-! ## Every effect keeps the invariant -/

theorem UartEffect.blockInv {s : State} {u : UartState} {i : Instr} {b : Block} {r : Result}
    (ha : s.block.adapter = .uart u) (h : BlockInv s.block) (e : UartEffect s u i b r) : BlockInv b := by
  have hns : 0 < b.trigNs := (e.sameParameters ha).2 ▸ h.1
  have hu : UartInv s.block u := ((blockInv_uart ha).1 h).2
  have run : ∀ {c}, u.mode = .configured c → UartRunning c s.block u := fun hm => (uartInv_configured hm).1 hu
  cases e with
  | same => exact h
  | decByte hm =>
    exact blockInv_of_uartRunning ha hm hns { run hm with dec := decInv_decStep (run hm).dec _ }
  | decodeUart hm =>
    exact blockInv_of_uartRunning ha hm hns { run hm with dec := decInv_decodeStream _ (run hm).dec }
  | setup hm hc => exact blockInv_of_uartRunning rfl rfl hns (uartRunning_cleared _ _ (legalUart_of_check hc))
  | reset => exact blockInv_of_uartCleared rfl rfl hns (Block.cleared_blockCleared _ _) rfl rfl
  | trySend hm h1 h2 room => exact blockInv_of_uartRunning ha hm hns ((run hm).enqueue h1 h2 room)
  | poll hm => exact blockInv_of_uartRunning rfl hm hns { run hm with fifo := Nat.zero_le _ }
  | txByte he =>
    obtain ⟨c, hm, hq⟩ := configured_of_txEnabled he
    obtain ⟨u', ha', hm', hr⟩ := (run hm).sendHead hq
    exact blockInv_of_uartRunning ha' (hm'.trans hm) hns hr
  | rxByte hm room =>
    exact blockInv_of_uartRunning rfl hm hns { run hm with fifo := (enq_length _ _).trans_le room }
  | rxLost hm => exact blockInv_of_uartRunning ha hm hns { run hm with }
  | ctsSet =>
    cases hm : u.mode with
    | unconfigured =>
      obtain ⟨hb, hpos, hrx⟩ := (uartInv_unconfigured hm).1 hu
      exact blockInv_of_uartCleared rfl rfl hns { hb with } hpos hrx
    | configured c => exact blockInv_of_uartRunning rfl rfl hns { run hm with }

theorem SpiEffect.blockInv {s : State} {p : SpiState} {i : Instr} {b : Block} {r : Result}
    (ha : s.block.adapter = .spi p) (h : BlockInv s.block) (e : SpiEffect s p i b r) : BlockInv b := by
  have hns : 0 < b.trigNs := (e.sameParameters ha).2 ▸ h.1
  have hp : SpiInv s.block p := ((blockInv_spi ha).1 h).2
  have run : ∀ {c}, p.mode = .configured c → SpiRunning c s.block p := fun hm => (spiInv_configured hm).1 hp
  cases e with
  | same | assertAgain | releaseAgain => exact h
  | decByte hm =>
    exact blockInv_of_spiRunning ha hm hns { run hm with dec := decInv_decStep (run hm).dec _ }
  | decodeUart hm =>
    exact blockInv_of_spiRunning ha hm hns { run hm with dec := decInv_decodeStream _ (run hm).dec }
  | setup hm hc => exact blockInv_of_spiRunning rfl rfl hns (spiRunning_cleared _ _ (legalSpi_of_check hc))
  | reset =>
    exact blockInv_of_spiCleared rfl rfl hns (Block.cleared_blockCleared _ _) (SpiState.cleared_spiCleared _ _)
  | trySend hm h1 h2 room => exact blockInv_of_spiRunning rfl hm hns ((run hm).enqueue h1 h2 room)
  | poll hm hr => exact blockInv_of_spiRunning rfl hm hns ((run hm).poll hr)
  | start hs hm => exact blockInv_of_spiRunning rfl hm hns (run hm).start
  | exchange hx hm => exact blockInv_of_spiRunning rfl ((exchangeByte_mode ..).trans hm) hns ((run hm).exchange hx _)
  | finish hs hx hm =>
    obtain ⟨p', ha', hm', hr⟩ := (run hm).finish
    exact blockInv_of_spiRunning ha' (hm'.trans hm) hns hr
  | release hs hx hm => exact blockInv_of_spiRunning rfl hm hns ((run hm).release hx)
  | select hs hm | deselect hs hm =>
    obtain ⟨hb, hc⟩ := (spiInv_unconfigured hm).1 hp
    exact blockInv_of_spiCleared rfl hm hns { hb with } { hc with }

theorem exec_machineInv {i : Instr} {s t : State} (hs : MachineInv s) (h : exec i s = .next t) : MachineInv t := by
  cases ha : s.block.adapter with
  | uart u => exact (exec_uartEffect ha h).blockInv ha hs
  | spi p => exact (exec_spiEffect ha h).blockInv ha hs

/-! ## A line that holds (41 R183; log 6) -/

/-- A line that holds after an operation held before it with UART_TX_BYTE's condition unmoved, or the operation itself
looked at the condition. -/
theorem UartEffect.lineAfter_waits {s : State} {u : UartState} {i : Instr} {b : Block} {r : Result}
    (ha : s.block.adapter = .uart u) (hs : LineInv s) (e : UartEffect s u i b r) (h : lineAfter s b r i = true) :
    b.txEnabled = false := by
  have held : s.lineHeld = true → txEnabled s.block.txQueue u = false :=
    fun hl => txEnabled_of_uart ha ▸ hs hl
  cases e with
  | same hi hv ok sent _ off =>
    rw [txEnabled_of_uart ha]
    cases i with
    | uartTxByte => exact off rfl
    | uartCtsSet v => exact absurd rfl (hv v)
    | uartTrySend f => exact held (by simpa [lineAfter, sent] using h)
    | _ => exact held h
  | decByte | decodeUart | rxLost => exact (txEnabled_of_uart ha).trans (held h)
  | poll | rxByte => exact held h
  | setup | reset => exact (txEnabled_of_uart rfl).trans (txEnabled_nil_queue _)
  | trySend | ctsSet =>
    simp only [lineAfter, if_true, Bool.and_eq_true, Bool.not_eq_true'] at h
    exact h.2
  | txByte => simp [lineAfter] at h

theorem exec_lineInv {i : Instr} {s t : State} (hs : LineInv s) (h : exec i s = .next t) : LineInv t := by
  cases ha : s.block.adapter with
  | uart u =>
    obtain ⟨b, r, rfl, e⟩ := exec_uart_eq_next ha h
    exact e.lineAfter_waits ha hs
  | spi p =>
    intro _
    exact txEnabled_eq_false_of_spi ((exec_sameParameters h).1.trans (variant_of_spi ha))

/-- Settles O50: a step is `exec` after the script moved, which no invariant reads, and `exec` keeps both on each
variant. -/
theorem everyStepKeepsTheInvariant : Obligations.EveryStepKeepsTheInvariant := by
  refine ⟨fun s t hs h => ?_, fun _ _ _ => exec_machineInv, fun s t hs h => ?_⟩
  · obtain ⟨i, rest, -, hi⟩ := step_eq_next h
    exact exec_machineInv (s := s.setScript rest) hs hi
  · obtain ⟨i, rest, -, hi⟩ := step_eq_next h
    exact exec_lineInv (s := s.setScript rest) hs hi

end Sys2Proof.Machine
end

section
/-! Which operations write the elements of state that few of them write: DEC (10_state R39), the traces (R41), mode and
record (R23, R24), the input mirrors (R35, R36) and the counters (R40). -/

namespace Sys2Proof.Machine

open Sys2Proof.Safety

/-! ## DEC (10 R39) -/

/-- The operations that may write DEC, a SETUP by its result. -/
def WritesDec (i : Instr) (r : Result) : Prop :=
  (∃ x, i = .decByte x) ∨ (∃ d, i = .decodeUart d) ∨ i = .reset ∨ r = .cfgOk

theorem UartEffect.dec_eq_or_writesDec {s : State} {u : UartState} {i : Instr} {b : Block} {r : Result}
    (e : UartEffect s u i b r) : b.dec = s.block.dec ∨ WritesDec i r := by
  cases e with
  | decByte => exact .inr (.inl ⟨_, rfl⟩)
  | decodeUart => exact .inr (.inr (.inl ⟨_, rfl⟩))
  | reset => exact .inr (.inr (.inr (.inl rfl)))
  | setup => exact .inr (.inr (.inr (.inr rfl)))
  | txByte => exact .inl (sendByte_dec _ _)
  | same | trySend | poll | rxByte | rxLost | ctsSet => exact .inl rfl

theorem SpiEffect.dec_eq_or_writesDec {s : State} {p : SpiState} {i : Instr} {b : Block} {r : Result}
    (e : SpiEffect s p i b r) : b.dec = s.block.dec ∨ WritesDec i r := by
  cases e with
  | decByte => exact .inr (.inl ⟨_, rfl⟩)
  | decodeUart => exact .inr (.inr (.inl ⟨_, rfl⟩))
  | reset => exact .inr (.inr (.inr (.inl rfl)))
  | setup => exact .inr (.inr (.inr (.inr rfl)))
  | finish => exact .inl (endTransaction_dec _ _ _)
  | same | trySend | poll | assertAgain | select | start | exchange | releaseAgain | release | deselect =>
    exact .inl rfl

theorem exec_dec_eq_or_writesDec {i : Instr} {s t : State} (h : exec i s = .next t) :
    t.block.dec = s.block.dec ∨ WritesDec i t.result := by
  cases ha : s.block.adapter with
  | uart u => exact (exec_uartEffect ha h).dec_eq_or_writesDec
  | spi p => exact (exec_spiEffect ha h).dec_eq_or_writesDec

theorem exec_blockCleared {i : Instr} {s t : State} (h : exec i s = .next t) (hc : i = .reset ∨ t.result = .cfgOk) :
    BlockCleared t.block := by
  cases ha : s.block.adapter with
  | uart u => exact (exec_uartEffect ha h).cleared hc
  | spi p => exact ((exec_spiEffect ha h).cleared hc).1

/-- Settles O59: an effect leaves DEC as it was or is one of those that write it, and the two that clear the block
clear DEC with it. -/
theorem decoderIsWrittenOnlyByItsOperations : Obligations.DecoderIsWrittenOnlyByItsOperations :=
  fun _ _ _ h => ⟨(exec_dec_eq_or_writesDec h).resolve_left, fun hc => (exec_blockCleared h hc).dec⟩

/-! ## The traces (10 R41) -/

theorem UartEffect.wireTx_grows {s : State} {u : UartState} {i : Instr} {b : Block} {r : Result}
    (ha : s.block.adapter = .uart u) (e : UartEffect s u i b r) :
    ∃ u' new, b.adapter = .uart u' ∧ u'.wireTx = u.wireTx ++ new ∧ (i ≠ .uartTxByte → new = []) := by
  cases e with
  | same | decByte | decodeUart | trySend | rxLost =>
    exact ⟨u, [], ha, (List.append_nil _).symm, fun _ => rfl⟩
  | setup | reset | poll | rxByte | ctsSet => exact ⟨_, [], rfl, (List.append_nil _).symm, fun _ => rfl⟩
  | txByte =>
    obtain ⟨n, ha'⟩ := sendByte_adapter s.block u
    exact ⟨_, _, ha', rfl, fun hi => absurd rfl hi⟩

theorem SpiEffect.trigOut_grows {s : State} {p : SpiState} {i : Instr} {b : Block} {r : Result}
    (ha : s.block.adapter = .spi p) (e : SpiEffect s p i b r) :
    ∃ p' new, b.adapter = .spi p' ∧ p'.trigOut = p.trigOut ++ new ∧
      (i = .reset ∨ (∃ c, i = .setup c) → new = []) := by
  cases e with
  | same | decByte | decodeUart | assertAgain | releaseAgain =>
    exact ⟨p, [], ha, (List.append_nil _).symm, fun _ => rfl⟩
  | setup | reset | poll | select | deselect => exact ⟨_, [], rfl, (List.append_nil _).symm, fun _ => rfl⟩
  | trySend | release => exact ⟨_, _, rfl, rfl, by simp⟩
  | start => exact ⟨_, _, rfl, List.append_assoc _ _ _, by simp⟩
  | exchange =>
    rw [exchangeByte_eq]
    exact ⟨_, _, rfl, rfl, by simp⟩
  | finish =>
    rw [endTransaction_eq]
    exact ⟨_, _, rfl, List.append_assoc _ _ _, by simp⟩

/-- Settles O53: every effect appends to its variant's trace, and those of RESET and SETUP append nothing. -/
theorem tracesOnlyGrow : Obligations.TracesOnlyGrow :=
  ⟨fun _ => ⟨⟨_, rfl, rfl⟩, _, rfl, rfl⟩, fun _ _ _ h =>
    ⟨fun _ ha => (exec_uartEffect ha h).wireTx_grows ha, fun _ ha => (exec_spiEffect ha h).trigOut_grows ha⟩⟩

/-! ## Mode and record (10 R23, R24) -/

/-- How an operation may move the record READ_STATUS shows: not at all, or to one by a SETUP that succeeds, or to none
by RESET. -/
inductive RecordMove : Instr → Result → StatusCfg → StatusCfg → Prop
  | keep {i : Instr} {r : Result} {c : StatusCfg} : RecordMove i r c c
  | setup {a : CfgArg} {c : StatusCfg} : RecordMove (.setup a) .cfgOk .none c
  | reset {r : Result} {c : StatusCfg} : RecordMove .reset r c .none

theorem statusCfg_uart_unconfigured {u : UartState} (hm : u.mode = .unconfigured) :
    statusCfg (.uart u) = .none := by simp [statusCfg, hm]

theorem statusCfg_spi_unconfigured {p : SpiState} (hm : p.mode = .unconfigured) :
    statusCfg (.spi p) = .none := by simp [statusCfg, hm]

theorem modeName_eq_unconfigured (b : Block) : b.modeName = .unconfigured ↔ statusCfg b.adapter = .none := by
  unfold Block.modeName
  cases ha : b.adapter with
  | uart u =>
    rw [common_uart ha]
    cases hm : u.mode <;> simp [statusCfg, hm]
  | spi p =>
    rw [common_spi ha]
    cases hm : p.mode <;> simp [statusCfg, hm]

theorem modeName_eq_configured (b : Block) : b.modeName = .configured ↔ statusCfg b.adapter ≠ .none := by
  rw [Ne, ← modeName_eq_unconfigured]
  cases b.modeName <;> simp

theorem UartEffect.recordMove {s : State} {u : UartState} {i : Instr} {b : Block} {r : Result}
    (ha : s.block.adapter = .uart u) (e : UartEffect s u i b r) :
    RecordMove i r (statusCfg s.block.adapter) (statusCfg b.adapter) := by
  cases e with
  | same | decByte | decodeUart | trySend | rxLost => exact .keep
  | poll | rxByte | ctsSet => rw [ha]; exact .keep
  | setup hm => rw [ha, statusCfg_uart_unconfigured hm]; exact .setup
  | reset => exact .reset
  | txByte =>
    obtain ⟨n, ha'⟩ := sendByte_adapter s.block u
    rw [ha, ha']
    exact .keep

theorem SpiEffect.recordMove {s : State} {p : SpiState} {i : Instr} {b : Block} {r : Result}
    (ha : s.block.adapter = .spi p) (e : SpiEffect s p i b r) :
    RecordMove i r (statusCfg s.block.adapter) (statusCfg b.adapter) := by
  cases e with
  | same | decByte | decodeUart | assertAgain | releaseAgain => exact .keep
  | trySend | poll | select | start | release | deselect => rw [ha]; exact .keep
  | setup hm => rw [ha, statusCfg_spi_unconfigured hm]; exact .setup
  | reset => exact .reset
  | exchange => rw [ha, exchangeByte_eq]; exact .keep
  | finish => rw [ha, endTransaction_eq]; exact .keep

theorem exec_recordMove {i : Instr} {s t : State} (h : exec i s = .next t) :
    RecordMove i t.result (statusCfg s.block.adapter) (statusCfg t.block.adapter) := by
  cases ha : s.block.adapter with
  | uart u => exact ha ▸ (exec_uartEffect ha h).recordMove ha
  | spi p => exact ha ▸ (exec_spiEffect ha h).recordMove ha

/-- Settles O54: the mode is read off the record, and the record moves in the three ways of `RecordMove`. -/
theorem modeMovesOnlyBySetupAndReset : Obligations.ModeMovesOnlyBySetupAndReset := by
  refine ⟨fun v n => ?_, fun s => modeName_eq_unconfigured _, fun i s t h => ?_⟩
  · cases v <;> exact ⟨rfl, rfl⟩
  · have hmove := exec_recordMove h
    simp only [modeName_eq_unconfigured, modeName_eq_configured]
    generalize statusCfg s.block.adapter = c at hmove ⊢
    generalize statusCfg t.block.adapter = c' at hmove ⊢
    generalize t.result = r at hmove ⊢
    cases hmove with
    | keep => exact ⟨fun hc hc' => absurd hc hc', fun hc hc' => absurd hc' hc, fun _ _ => rfl⟩
    | setup => exact ⟨fun _ _ => ⟨_, rfl, rfl⟩, fun hc => absurd rfl hc, fun hc => absurd rfl hc⟩
    | reset => exact ⟨fun _ hc => absurd rfl hc, fun _ _ => rfl, fun _ hc => absurd rfl hc⟩

/-! ## The input mirrors (10 R35, R36) -/

theorem UartEffect.ctsIn {s : State} {u : UartState} {i : Instr} {b : Block} {r : Result}
    (ha : s.block.adapter = .uart u) (e : UartEffect s u i b r) :
    ∃ u', b.adapter = .uart u' ∧ ((∀ v, i ≠ .uartCtsSet v) → u'.ctsIn = u.ctsIn) ∧
      (∀ v, i = .uartCtsSet v → u'.ctsIn = v) := by
  cases e with
  | same _ hv => exact ⟨u, ha, fun _ => rfl, fun v hi => absurd hi (hv v)⟩
  | decByte | decodeUart | trySend | rxLost => exact ⟨u, ha, fun _ => rfl, by simp⟩
  | setup | reset | poll | rxByte => exact ⟨_, rfl, fun _ => rfl, by simp⟩
  | txByte =>
    obtain ⟨n, ha'⟩ := sendByte_adapter s.block u
    exact ⟨_, ha', fun _ => rfl, by simp⟩
  | ctsSet => exact ⟨_, rfl, fun hi => absurd rfl (hi _), fun _ hi => Instr.uartCtsSet.inj hi⟩

theorem SpiEffect.csIn {s : State} {p : SpiState} {i : Instr} {b : Block} {r : Result}
    (ha : s.block.adapter = .spi p) (e : SpiEffect s p i b r) :
    ∃ p', b.adapter = .spi p' ∧ (i ≠ .spiCsAssert → i ≠ .spiCsDeassert → p'.csIn = p.csIn) ∧
      (i = .spiCsAssert → p'.csIn = true) ∧ (i = .spiCsDeassert → p'.csIn = false) := by
  cases e with
  | same _ hassert hdeassert =>
    exact ⟨p, ha, fun _ _ => rfl, fun hi => absurd hi hassert, fun hi => absurd hi hdeassert⟩
  | decByte | decodeUart => exact ⟨p, ha, fun _ _ => rfl, by simp, by simp⟩
  | setup | reset | trySend | poll => exact ⟨_, rfl, fun _ _ => rfl, by simp, by simp⟩
  | exchange => rw [exchangeByte_eq]; exact ⟨_, rfl, fun _ _ => rfl, by simp, by simp⟩
  | assertAgain hs => exact ⟨p, ha, fun hi => absurd rfl hi, fun _ => hs, by simp⟩
  | select | start => exact ⟨_, rfl, fun hi => absurd rfl hi, fun _ => rfl, by simp⟩
  | releaseAgain hs => exact ⟨p, ha, fun _ hi => absurd rfl hi, by simp, fun _ => hs⟩
  | release | deselect => exact ⟨_, rfl, fun _ hi => absurd rfl hi, by simp, fun _ => rfl⟩
  | finish => rw [endTransaction_eq]; exact ⟨_, rfl, fun _ hi => absurd rfl hi, by simp, fun _ => rfl⟩

/-- Settles O56: an effect that is not of the pin's own operations leaves the mirror, and theirs leave it at the
level. -/
theorem mirrorsFollowOnlyTheirPins : Obligations.MirrorsFollowOnlyTheirPins :=
  ⟨rfl, rfl, fun _ _ _ _ h ha => (exec_uartEffect ha h).ctsIn ha, fun _ _ _ _ h ha => (exec_spiEffect ha h).csIn ha⟩

/-! ## The counters (10 R40) -/

/-- A counter that moves from `x` to `x'` does so by one, modulo 2^32, and at a step the table names for it. -/
def Ticks (named : Prop) (x x' : Counter) : Prop := x' ≠ x → named ∧ x'.toNat = (x.toNat + 1) % 2 ^ 32

theorem Ticks.same {named : Prop} {x : Counter} : Ticks named x x := fun h => absurd rfl h

theorem Ticks.bump {named : Prop} {x : Counter} (hn : named) : Ticks named x (Machine.bump x) :=
  fun _ => ⟨hn, BitVec.toNat_add x 1⟩

theorem Ticks.bump_if {named q : Prop} [Decidable q] {x : Counter} (hn : named) :
    Ticks named x (if q then Machine.bump x else x) := by
  split
  · exact .bump hn
  · exact .same

/-- The two counters both variants have, over operation `i`. -/
structure BlockTicks (i : Instr) (b b' : Block) : Prop where
  txFrames  : Ticks (i = .uartTxByte ∨ i = .spiCsDeassert) b.cntTxFrames b'.cntTxFrames
  rxOverrun : Ticks ((∃ x, i = .uartRxByte x) ∨ i = .spiCsDeassert) b.cntRxOverrun b'.cntRxOverrun

/-- The counters only an SPI block has, over operation `i`. -/
structure SpiTicks (i : Instr) (p p' : SpiState) : Prop where
  txTruncated : Ticks (i = .spiCsDeassert) p.cntTxTruncated p'.cntTxTruncated
  rxIdle      : Ticks (i = .spiCsDeassert) p.cntRxIdle p'.cntRxIdle
  rxClipped   : Ticks (∃ m, i = .spiXfer m) p.cntRxClipped p'.cntRxClipped

theorem UartEffect.blockTicks {s : State} {u : UartState} {i : Instr} {b : Block} {r : Result}
    (e : UartEffect s u i b r) (hi : i ≠ .reset) (hr : r ≠ .cfgOk) : BlockTicks i s.block b := by
  cases e with
  | setup => exact absurd rfl hr
  | reset => exact absurd rfl hi
  | txByte =>
    constructor
    · rw [sendByte_cntTxFrames]
      exact .bump_if (.inl rfl)
    · rw [sendByte_cntRxOverrun]
      exact .same
  | rxLost => exact ⟨.same, .bump (.inl ⟨_, rfl⟩)⟩
  | same | decByte | decodeUart | trySend | poll | rxByte | ctsSet => exact ⟨.same, .same⟩

theorem SpiEffect.blockTicks {s : State} {p : SpiState} {i : Instr} {b : Block} {r : Result}
    (e : SpiEffect s p i b r) (hi : i ≠ .reset) (hr : r ≠ .cfgOk) : BlockTicks i s.block b := by
  cases e with
  | setup => exact absurd rfl hr
  | reset => exact absurd rfl hi
  | finish =>
    rw [endTransaction_eq]
    exact ⟨.bump_if (.inr rfl), .bump_if (.inr rfl)⟩
  | same | decByte | decodeUart | trySend | poll | assertAgain | select | start | exchange | releaseAgain | release
    | deselect => exact ⟨.same, .same⟩

theorem SpiEffect.spiTicks {s : State} {p : SpiState} {i : Instr} {b : Block} {r : Result}
    (ha : s.block.adapter = .spi p) (e : SpiEffect s p i b r) (hi : i ≠ .reset) (hr : r ≠ .cfgOk) :
    ∃ p', b.adapter = .spi p' ∧ SpiTicks i p p' := by
  cases e with
  | setup => exact absurd rfl hr
  | reset => exact absurd rfl hi
  | same | decByte | decodeUart | assertAgain | releaseAgain => exact ⟨p, ha, .same, .same, .same⟩
  | trySend | poll | select | start | release | deselect => exact ⟨_, rfl, .same, .same, .same⟩
  | exchange =>
    rw [exchangeByte_eq]
    refine ⟨_, rfl, .same, .same, ?_⟩
    dsimp only
    split
    · exact .same
    · exact .bump ⟨_, rfl⟩
  | finish =>
    rw [endTransaction_eq]
    exact ⟨_, rfl, .bump_if rfl, .bump_if rfl, .same⟩

theorem exec_blockTicks {i : Instr} {s t : State} (h : exec i s = .next t) (hi : i ≠ .reset)
    (hr : t.result ≠ .cfgOk) : BlockTicks i s.block t.block := by
  cases ha : s.block.adapter with
  | uart u => exact (exec_uartEffect ha h).blockTicks hi hr
  | spi p => exact (exec_spiEffect ha h).blockTicks hi hr

theorem exec_spiCleared {i : Instr} {s t : State} {p : SpiState} (h : exec i s = .next t)
    (hc : i = .reset ∨ t.result = .cfgOk) (hp : t.block.adapter = .spi p) : SpiCleared p := by
  cases ha : s.block.adapter with
  | uart u =>
    have hv := (exec_sameParameters h).1
    simp [variant_of_uart ha, variant_of_spi hp] at hv
  | spi q =>
    obtain ⟨-, p', hp', hcleared⟩ := (exec_spiEffect ha h).cleared hc
    obtain rfl : p' = p := by simpa [hp'] using hp
    exact hcleared

/-- Settles O58: an effect that clears nothing leaves each counter or bumps it at its own operation, and the two that
clear the block clear every counter with it. -/
theorem countersMoveOnlyByTheirEvents : Obligations.CountersMoveOnlyByTheirEvents := by
  refine ⟨fun i s t h hi hr => ?_, fun i s t h hc => ?_⟩
  · obtain ⟨txFrames, rxOverrun⟩ := exec_blockTicks h hi hr
    refine ⟨txFrames, rxOverrun, fun p ha => ?_⟩
    obtain ⟨p', hp', txTruncated, rxIdle, rxClipped⟩ := (exec_spiEffect ha h).spiTicks ha hi hr
    exact ⟨p', hp', txTruncated, rxIdle, rxClipped⟩
  · have hb := exec_blockCleared h hc
    refine ⟨hb.cntTxFrames, hb.cntRxOverrun, fun p hp => ?_⟩
    have hcleared := exec_spiCleared h hc hp
    exact ⟨hcleared.cntTxTruncated, hcleared.cntRxIdle, hcleared.cntRxClipped⟩

end Sys2Proof.Machine
end

section
/-! What the operations that read the block may write (20_memory R75): the pure ones nothing, the decoding ones DEC
alone, and UART_POLL the receive FIFO, which it leaves empty. -/

namespace Sys2Proof.Machine

/-! ## The pure and the decoding operations -/

/-- The operations that read the block and write none of it. -/
def PureOp (i : Instr) : Prop :=
  i = .readStatus ∨ (∃ d, i = .crc16 d) ∨ (∃ h p, i = .encodeUart h p) ∨ (∃ h p, i = .encodeSpi h p) ∨
    ∃ d, i = .decodeSpi d

/-- The operations that run the stream decoder. -/
def DecodingOp (i : Instr) : Prop := (∃ x, i = .decByte x) ∨ ∃ d, i = .decodeUart d

theorem UartEffect.block_of_pureOp {s : State} {u : UartState} {i : Instr} {b : Block} {r : Result}
    (e : UartEffect s u i b r) (hi : PureOp i) : b = s.block := by
  cases e with
  | same => rfl
  | decByte | decodeUart | setup | reset | trySend | poll | txByte | rxByte | rxLost | ctsSet => simp [PureOp] at hi

theorem SpiEffect.block_of_pureOp {s : State} {p : SpiState} {i : Instr} {b : Block} {r : Result}
    (e : SpiEffect s p i b r) (hi : PureOp i) : b = s.block := by
  cases e with
  | same => rfl
  | decByte | decodeUart | setup | reset | trySend | poll | assertAgain | select | start | exchange | releaseAgain
    | finish | release | deselect => simp [PureOp] at hi

theorem exec_block_of_pureOp {i : Instr} {s t : State} (h : exec i s = .next t) (hi : PureOp i) :
    t.block = s.block := by
  cases ha : s.block.adapter with
  | uart u => exact (exec_uartEffect ha h).block_of_pureOp hi
  | spi p => exact (exec_spiEffect ha h).block_of_pureOp hi

theorem UartEffect.block_of_decodingOp {s : State} {u : UartState} {i : Instr} {b : Block} {r : Result}
    (e : UartEffect s u i b r) (hi : DecodingOp i) : b = s.block.setDec b.dec := by
  cases e with
  | same | decByte | decodeUart => rfl
  | setup | reset | trySend | poll | txByte | rxByte | rxLost | ctsSet => simp [DecodingOp] at hi

theorem SpiEffect.block_of_decodingOp {s : State} {p : SpiState} {i : Instr} {b : Block} {r : Result}
    (e : SpiEffect s p i b r) (hi : DecodingOp i) : b = s.block.setDec b.dec := by
  cases e with
  | same | decByte | decodeUart => rfl
  | setup | reset | trySend | poll | assertAgain | select | start | exchange | releaseAgain | finish | release
    | deselect => simp [DecodingOp] at hi

theorem exec_block_of_decodingOp {i : Instr} {s t : State} (h : exec i s = .next t) (hi : DecodingOp i) :
    t.block = s.block.setDec t.block.dec := by
  cases ha : s.block.adapter with
  | uart u => exact (exec_uartEffect ha h).block_of_decodingOp hi
  | spi p => exact (exec_spiEffect ha h).block_of_decodingOp hi

/-! ## READ_STATUS and UART_POLL (43 R264, 41 R182) -/

theorem exec_readStatus_result {s t : State} (h : exec .readStatus s = .next t) :
    t.result = .status (statusOf s.block) := by
  obtain rfl := done_eq_next.1 h
  rfl

theorem exec_uartPoll_eq_next {s t : State} (h : exec .uartPoll s = .next t) :
    ∃ u, s.block.adapter = .uart u ∧ t.block.adapter = .uart { u with rxFifo := [] } ∧
      t.result = if u.rxFifo = [] then .pollNone else .bytes u.rxFifo := by
  simp only [exec, execUartPoll, needUart_eq_next, needCfg_eq_next] at h
  obtain ⟨u, ha, c, -, h⟩ := h
  refine ⟨u, ha, ?_⟩
  by_cases hr : u.rxFifo = []
  · rw [if_pos hr] at h ⊢
    obtain rfl := done_eq_next.1 h
    exact ⟨by rw [← hr]; exact ha, rfl⟩
  · rw [if_neg hr] at h ⊢
    obtain rfl := done_eq_next.1 h
    exact ⟨rfl, rfl⟩

theorem exec_uartPoll_result_of_empty {s t : State} {u : UartState} (ha : s.block.adapter = .uart u)
    (hr : u.rxFifo = []) (h : exec .uartPoll s = .next t) : t.result = .pollNone := by
  obtain ⟨v, hv, -, ht⟩ := exec_uartPoll_eq_next h
  obtain rfl : u = v := by simpa [ha] using hv
  rw [ht, if_pos hr]

/-- Settles O57: an effect of a pure operation is the one that leaves the block and an effect of a decoding one moves
DEC alone, so the second READ_STATUS reads the same block; the second UART_POLL finds the FIFO the first one emptied. -/
theorem readsWriteOnlyWhatTheyMay : Obligations.ReadsWriteOnlyWhatTheyMay := by
  refine ⟨fun i s t h => ⟨exec_block_of_pureOp h, exec_block_of_decodingOp h⟩, fun s t t' h h' => ?_,
    fun s t t' h h' => ?_⟩
  · have same : t.block = s.block := exec_block_of_pureOp h (.inl rfl)
    rw [exec_readStatus_result h', exec_readStatus_result h, same]
  · obtain ⟨u, -, emptied, -⟩ := exec_uartPoll_eq_next h
    exact exec_uartPoll_result_of_empty emptied rfl h'

end Sys2Proof.Machine
end

section
/-! The operation bytes (30_encoding R100 to R104): each code's operand reader undoes its writer and reads only what it
writes, so `decode` and `encode` are inverse; a code outside R101 has no reader. -/

namespace Sys2Proof

open Sys2Proof.Spec

/-! ## Decode of encode -/

theorem takeOperands_putOperands (i : Instr) (rest : List Byte) (h : i.wellFormed = true) :
    takeOperands i.code (putOperands i ++ rest) = .ok (i, rest) := by
  cases i with
  | setup c =>
    change (takeCfg (putCfg c ++ rest) >>= _) = _
    rw [takeCfg_putCfg c rest h]
    rfl
  | crc16 s | decodeUart s | decodeSpi s | uartTrySend s | spiTrySend s =>
    change (takeBytes (putBytes s ++ rest) >>= _) = _
    rw [takeBytes_putBytes]
    rfl
  | encodeUart h p | encodeSpi h p =>
    change (takeBytes (putBytes p ++ rest) >>= _) = _
    rw [takeBytes_putBytes]
    rfl
  | uartCtsSet v =>
    change (takeLevel (putLevel v ++ rest) >>= _) = _
    rw [takeLevel_putLevel]
    rfl
  | reset | readStatus | decByte | uartPoll | uartTxByte | uartRxByte | spiPoll | spiCsAssert | spiXfer
    | spiCsDeassert => rfl

/-- Settles O1: after the code byte, the operand reader of that code undoes the writer. -/
theorem encodedOperationsDecodeToThemselves : Obligations.EncodedOperationsDecodeToThemselves :=
  takeOperands_putOperands

/-! ## Encode of decode -/

/-- What a code's reader leaves to show: the operation is well-formed and the bytes it read are its own. -/
def ReadBack (code : Byte) (bs : List Byte) (i : Instr) (rest : List Byte) : Prop :=
  i.wellFormed = true ∧ code = i.code ∧ bs = putOperands i ++ rest

/-- A reader of one operand and an operation made of it, from what the reader read. -/
theorem readBack_of_operand {α : Type} {code : Byte} {bs rest : List Byte} {i : Instr} {mk : α → Instr}
    {take : List Byte → Except DecodeError (α × List Byte)}
    (h : (take bs >>= fun a => .ok (mk a.1, a.2)) = .ok (i, rest))
    (back : ∀ {a r}, take bs = .ok (a, r) → ReadBack code bs (mk a) r) : ReadBack code bs i rest := by
  obtain ⟨⟨a, r⟩, ha, he⟩ := ok_of_bind h
  cases he
  exact back ha

theorem readBack_of_hdr_payload {code : Byte} {bs rest : List Byte} {i : Instr} {mk : Hdr → List Byte → Instr}
    (h : (takeHdr bs >>= fun a => takeBytes a.2 >>= fun b => .ok (mk a.1 b.1, b.2)) = .ok (i, rest))
    (back : ∀ {g p r}, bs = putHdr g ++ putBytes p ++ r → ReadBack code bs (mk g p) r) : ReadBack code bs i rest := by
  obtain ⟨⟨g, r⟩, hg, h⟩ := ok_of_bind h
  obtain ⟨⟨p, r'⟩, hp, he⟩ := ok_of_bind h
  cases he
  exact back (by rw [takeHdr_eq hg, List.append_assoc, ← takeBytes_eq hp])

theorem readBack_of_takeOperands {code : Byte} {bs rest : List Byte} {i : Instr}
    (h : takeOperands code bs = .ok (i, rest)) : ReadBack code bs i rest := by
  unfold takeOperands at h
  have isCode : ∀ {k : Byte}, code.toNat = k.toNat → code = k := BitVec.eq_of_toNat_eq
  split at h
  case h_1 hc => -- SETUP
    exact readBack_of_operand h fun e => ⟨(takeCfg_eq e).1, isCode hc, (takeCfg_eq e).2⟩
  case h_5 hc | h_6 hc => -- ENCODE_UART, ENCODE_SPI
    exact readBack_of_hdr_payload h fun e => ⟨rfl, isCode hc, e⟩
  case h_7 hc | h_13 hc | h_18 hc => -- one byte
    exact readBack_of_operand h fun e => ⟨rfl, isCode hc, takeByte_eq e⟩
  case h_14 hc => -- UART_CTS_SET
    exact readBack_of_operand h fun e => ⟨rfl, isCode hc, takeLevel_eq e⟩
  case h_4 hc | h_8 hc | h_9 hc | h_10 hc | h_15 hc => -- a byte sequence
    exact readBack_of_operand h fun e => ⟨rfl, isCode hc, takeBytes_eq e⟩
  case h_20 => cases h
  all_goals
    rename_i hc
    cases h
    exact ⟨rfl, isCode hc, rfl⟩

/-- Settles O2: the code byte is the operation's and its reader read only what its writer writes. -/
theorem decodedBytesAreTheEncoding : Obligations.DecodedBytesAreTheEncoding := by
  intro bs i rest h
  cases bs with
  | nil => cases h
  | cons code bs =>
    obtain ⟨wf, hcode, hbs⟩ := readBack_of_takeOperands h
    exact ⟨wf, by rw [hcode, hbs]; rfl⟩

/-! ## The code map (30 R100 to R102) -/

theorem code_mem_listedCodes (i : Instr) : i.code ∈ listedCodes := by
  cases i <;> simp [Instr.code, listedCodes]

theorem code_div_16_eq_group (i : Instr) : i.code.toNat / 16 = group i := by
  cases i <;> simp [Instr.code, group]

theorem code_bit_3_iff_peer (i : Instr) : i.code.getLsbD 3 = true ↔ i.agent = .peer := by
  cases i <;> simp [Instr.code, Instr.agent]

/-- Settles O4: the encoding is the code and then the operands, and the code is read off the row of R101. -/
theorem codeNamesGroupAndAgent : Obligations.CodeNamesGroupAndAgent :=
  fun i => ⟨⟨putOperands i, rfl⟩, code_mem_listedCodes i, code_div_16_eq_group i, code_bit_3_iff_peer i⟩

/-- The operations of one adapter are those of its group. -/
theorem variant_eq_some_iff_group (i : Instr) :
    (i.variant? = some .uart ↔ group i = 2) ∧ (i.variant? = some .spi ↔ group i = 3) := by
  cases i <;> simp [Instr.variant?, group]

/-- Every code with an operand reader is listed. -/
theorem takeOperands_of_not_mem {code : Byte} (h : code ∉ listedCodes) (bs : List Byte) :
    takeOperands code bs = .error (.reservedCode code) := by
  have unlisted : ∀ {k : Nat}, code.toNat = k → BitVec.ofNat 8 k ∉ listedCodes := by
    rintro _ rfl
    simpa using h
  unfold takeOperands
  split
  case h_20 => rfl
  all_goals
    rename_i hc
    exact absurd (by decide) (unlisted hc)

/-- Settles O5: each word is run through the decoder. -/
theorem writtenOutWordsDecode : Obligations.WrittenOutWordsDecode := by
  refine ⟨rfl, ?_, rfl, rfl, rfl, rfl⟩
  decide

end Sys2Proof
end

section
/-! What has no meaning on an instance: the other variant's operations fault (30_encoding R102), and `exec` refuses
nothing but a SETUP with the other variant's record (R103; log 8). -/

namespace Sys2Proof.Machine

open Sys2Proof.Spec

/-! ## The other variant's operations -/

theorem needUart_of_variant_ne {s : State} (h : Variant.uart ≠ s.block.variant) (k : UartState → Out) :
    needUart s k = .fault (.wrongVariant s.stepIndex) := by
  cases ha : s.block.adapter with
  | uart u => exact absurd (variant_of_uart ha).symm h
  | spi p => simp [needUart, ha]

theorem needSpi_of_variant_ne {s : State} (h : Variant.spi ≠ s.block.variant) (k : SpiState → Out) :
    needSpi s k = .fault (.wrongVariant s.stepIndex) := by
  cases ha : s.block.adapter with
  | uart u => simp [needSpi, ha]
  | spi p => exact absurd (variant_of_spi ha).symm h

theorem exec_of_variant_ne {i : Instr} {s : State} {v : Variant} (hi : i.variant? = some v)
    (hv : v ≠ s.block.variant) : exec i s = .fault (.wrongVariant s.stepIndex) := by
  cases i with
  | setup | reset | readStatus | crc16 | encodeUart | encodeSpi | decByte | decodeUart | decodeSpi => cases hi
  | uartTrySend | uartPoll | uartTxByte | uartRxByte | uartCtsSet =>
    cases hi
    exact needUart_of_variant_ne hv _
  | spiTrySend | spiPoll | spiCsAssert | spiXfer | spiCsDeassert =>
    cases hi
    exact needSpi_of_variant_ne hv _

theorem step_of_reserved_code {s : State} {code : Byte} {bs : List Byte} (h : code ∉ listedCodes)
    (hs : s.script = code :: bs) : step s = .refused (.undecodable (.reservedCode code)) :=
  step_of_decode_error (by rw [hs]; exact takeOperands_of_not_mem h bs)

/-- Settles O3: the 256 codes are counted, an unlisted one has no operand reader, and an operation of one variant starts
with the guard that only that variant passes. -/
theorem reservedCodesAreRefused : Obligations.ReservedCodesAreRefused := by
  refine ⟨by decide +kernel, fun _ _ _ => step_of_reserved_code, fun _ _ _ => exec_of_variant_ne, fun i => ?_⟩
  rw [code_div_16_eq_group]
  exact variant_eq_some_iff_group i

/-! ## Refusals -/

section
variable {s : State} {r : Refusal}

/-- A guard refuses nothing of its own. -/
theorem needUart_ne_refused {k : UartState → Out} (h : ∀ u, k u ≠ .refused r) : needUart s k ≠ .refused r := by
  unfold needUart
  cases s.block.adapter with
  | uart u => exact h u
  | spi p => simp

theorem needSpi_ne_refused {k : SpiState → Out} (h : ∀ p, k p ≠ .refused r) : needSpi s k ≠ .refused r := by
  unfold needSpi
  cases s.block.adapter with
  | uart u => simp
  | spi p => exact h p

theorem needCfg_ne_refused {α : Type} {m : Mode α} {k : α → Out} (h : ∀ c, k c ≠ .refused r) :
    needCfg s m k ≠ .refused r := by
  cases m with
  | unconfigured => simp
  | configured c => exact h c

theorem needCommon_ne_refused {k : CommonCfg → Out} (h : ∀ c, k c ≠ .refused r) : needCommon s k ≠ .refused r := by
  unfold needCommon
  cases s.block.common? with
  | none => simp
  | some c => exact h c

theorem needFrameLen_ne_refused {f : List Byte} {n : Nat} {k : Out} (h : k ≠ .refused r) :
    needFrameLen s f n k ≠ .refused r := by
  unfold needFrameLen
  split
  · simp
  · exact h

theorem encodeWith_ne_refused {form : Hdr → List Byte → List Byte} {h : Hdr} {p : List Byte} :
    encodeWith form h p s ≠ .refused r :=
  needCommon_ne_refused fun _ => by split <;> exact done_ne_refused

/-- Every meaning but SETUP's answers the state it leaves, or the fault of a guard. -/
theorem exec_ne_refused {i : Instr} (hi : ∀ c, i ≠ .setup c) : exec i s ≠ .refused r := by
  cases i with
  | setup c => exact absurd rfl (hi c)
  | reset | readStatus | crc16 => exact done_ne_refused
  | encodeUart | encodeSpi => exact encodeWith_ne_refused
  | decByte | decodeUart | decodeSpi => exact needCommon_ne_refused fun _ => done_ne_refused
  | uartTrySend =>
    exact needUart_ne_refused fun _ => needCfg_ne_refused fun _ => needFrameLen_ne_refused (by split <;> simp)
  | spiTrySend =>
    exact needSpi_ne_refused fun _ => needCfg_ne_refused fun _ => needFrameLen_ne_refused (by split <;> simp)
  | uartPoll => exact needUart_ne_refused fun _ => needCfg_ne_refused fun _ => by split <;> simp
  | spiPoll => exact needSpi_ne_refused fun _ => needCfg_ne_refused fun _ => by split <;> simp
  | uartTxByte => exact needUart_ne_refused fun _ => by split <;> simp
  | uartCtsSet => exact needUart_ne_refused fun _ => by simp
  | spiXfer => exact needSpi_ne_refused fun _ => by split <;> simp
  | uartRxByte =>
    refine needUart_ne_refused fun _ => ?_
    split
    · simp
    · split <;> simp
  | spiCsAssert =>
    refine needSpi_ne_refused fun _ => ?_
    split
    · simp
    · split <;> simp
  | spiCsDeassert =>
    refine needSpi_ne_refused fun _ => ?_
    split
    · simp
    · split <;> simp

theorem setupUart_eq_refused {u : UartState} {c : CfgArg} :
    setupUart s u c = .refused r ↔
      r = .recordOfOtherVariant ∧ u.mode = .unconfigured ∧ recordOf .uart c = false := by
  unfold setupUart
  cases u.mode with
  | configured _ => simp
  | unconfigured =>
    cases c with
    | spi _ => simpa [recordOf] using eq_comm
    | uart a => cases hc : checkUart a <;> simp [recordOf, hc]

theorem setupSpi_eq_refused {p : SpiState} {c : CfgArg} :
    setupSpi s p c = .refused r ↔
      r = .recordOfOtherVariant ∧ p.mode = .unconfigured ∧ recordOf .spi c = false := by
  unfold setupSpi
  cases p.mode with
  | configured _ => simp
  | unconfigured =>
    cases c with
    | uart _ => simpa [recordOf] using eq_comm
    | spi a => cases hc : checkSpi s.block.trigNs a <;> simp [recordOf, hc]

theorem modeName_of_uart {b : Block} {u : UartState} (ha : b.adapter = .uart u) :
    b.modeName = .unconfigured ↔ u.mode = .unconfigured := by
  rw [modeName_eq_unconfigured, ha]
  cases hm : u.mode <;> simp [statusCfg, hm]

theorem modeName_of_spi {b : Block} {p : SpiState} (ha : b.adapter = .spi p) :
    b.modeName = .unconfigured ↔ p.mode = .unconfigured := by
  rw [modeName_eq_unconfigured, ha]
  cases hm : p.mode <;> simp [statusCfg, hm]

theorem exec_setup_eq_refused {c : CfgArg} :
    exec (.setup c) s = .refused r ↔
      r = .recordOfOtherVariant ∧ s.block.modeName = .unconfigured ∧ recordOf s.block.variant c = false := by
  cases ha : s.block.adapter with
  | uart u => simp only [exec, execSetup, ha, setupUart_eq_refused, modeName_of_uart ha, variant_of_uart ha]
  | spi p => simp only [exec, execSetup, ha, setupSpi_eq_refused, modeName_of_spi ha, variant_of_spi ha]

end

/-- Settles O9: no meaning but SETUP's refuses, and SETUP's does so in one arm of either variant. -/
theorem onlyForeignRecordsAreRefused : Obligations.OnlyForeignRecordsAreRefused := by
  intro i s r
  constructor
  · intro h
    by_cases hi : ∃ c, i = .setup c
    · obtain ⟨c, rfl⟩ := hi
      obtain ⟨hr, hm, hc⟩ := exec_setup_eq_refused.1 h
      exact ⟨hr, hm, c, rfl, hc⟩
    · exact absurd h (exec_ne_refused fun c hc => hi ⟨c, hc⟩)
  · rintro ⟨hr, hm, c, rfl, hc⟩
    exact exec_setup_eq_refused.2 ⟨hr, hm, hc⟩

end Sys2Proof.Machine
end

section
/-! The forms of a frame (30_encoding R93 to R98): a content byte by byte, what stuffing does to it, and that its CRC
keeps it from being all FILL. -/

namespace Sys2Proof.Machine

/-! ## The layout of a content (30 R93, R94) -/

theorem lo8_eq (v : Half) : lo8 v = BitVec.ofNat 8 (v.toNat % 256) := by
  apply BitVec.eq_of_toNat_eq
  simp [lo8]

theorem hi8_eq (v : Half) : hi8 v = BitVec.ofNat 8 (v.toNat / 256) := by
  apply BitVec.eq_of_toNat_eq
  simp [hi8, Nat.shiftRight_eq_div_pow]

theorem le16_eq (v : Half) : le16 v = [BitVec.ofNat 8 (v.toNat % 256), BitVec.ofNat 8 (v.toNat / 256)] := by
  rw [le16, lo8_eq, hi8_eq]

theorem hdrBytes_eq (h : Hdr) {n : Nat} (hn : n ≤ 65535) :
    hdrBytes h n = [h.ep, h.ctrl, h.seq, h.ack, BitVec.ofNat 8 (n % 256), BitVec.ofNat 8 (n / 256)] := by
  have small : n % 2 ^ 16 = n := Nat.mod_eq_of_lt (Nat.lt_succ_of_le hn)
  rw [hdrBytes, le16_eq, BitVec.toNat_ofNat, small]
  rfl

/-- Settles O14: the body is the header and the payload, and both 16-bit fields are written by `le16`. -/
theorem contentLayout : Obligations.ContentLayout := by
  intro h p hp
  refine ⟨hdrBytes h p.length ++ p, by rw [hdrBytes_eq h hp], ?_, content_length h p⟩
  rw [content, trailer, le16_eq]

/-! ## Stuffing (30 R95, R96) -/

/-- The wire bytes of one content byte. -/
def stuffByte (b : Byte) : List Byte := if b = flagByte ∨ b = escByte then [escByte, b ^^^ escXor] else [b]

theorem stuff_cons (b : Byte) (s : List Byte) : stuff (b :: s) = stuffByte b ++ stuff s := by
  by_cases h : b = flagByte ∨ b = escByte <;> simp [stuff, stuffByte, h]

theorem stuff_eq_flatMap (s : List Byte) : stuff s = s.flatMap stuffByte := by
  induction s with
  | nil => rfl
  | cons b s ih => rw [stuff_cons, ih, List.flatMap_cons]

theorem stuffByte_flag : stuffByte flagByte = [escByte, 0x5E] := rfl

theorem stuffByte_esc : stuffByte escByte = [escByte, 0x5D] := rfl

theorem stuffByte_plain {b : Byte} (hf : b ≠ flagByte) (he : b ≠ escByte) : stuffByte b = [b] := by
  simp [stuffByte, hf, he]

/-- Settles O15: `stuff` works byte by byte, and the two escape pairs are computed. -/
theorem stuffingEscapesFlagAndEsc : Obligations.StuffingEscapesFlagAndEsc := by
  intro s
  rw [stuff_eq_flatMap]
  congr 1
  funext b
  by_cases hf : b = flagByte
  · subst hf; rfl
  · by_cases he : b = escByte
    · subst he; rfl
    · rw [stuffByte_plain hf he]
      exact ((if_neg hf).trans (if_neg he)).symm

theorem flagByte_notMem_stuffByte (b : Byte) : flagByte ∉ stuffByte b := by
  by_cases hf : b = flagByte
  · subst hf; decide
  · by_cases he : b = escByte
    · subst he; decide
    · simpa [stuffByte_plain hf he] using Ne.symm hf

theorem stuffByte_length (b : Byte) : 1 ≤ (stuffByte b).length ∧ (stuffByte b).length ≤ 2 := by
  unfold stuffByte
  split <;> simp

theorem flagByte_notMem_stuff (s : List Byte) : flagByte ∉ stuff s := by
  rw [stuff_eq_flatMap, List.mem_flatMap]
  rintro ⟨b, -, hb⟩
  exact flagByte_notMem_stuffByte b hb

theorem stuff_length (s : List Byte) : s.length ≤ (stuff s).length ∧ (stuff s).length ≤ 2 * s.length := by
  induction s with
  | nil => exact ⟨le_rfl, le_rfl⟩
  | cons b s ih =>
    have hb := stuffByte_length b
    rw [stuff_cons, List.length_append, List.length_cons]
    omega

theorem uartFrame_length (h : Hdr) (p : List Byte) : (uartFrame h p).length = (stuff (content h p)).length + 1 := by
  rw [uartFrame, List.length_append, List.length_singleton]

/-- Settles O16: stuffing writes no FLAG and one or two bytes for each of the 8 + L of the content. -/
theorem uartFrameEndsInItsOnlyFlag : Obligations.UartFrameEndsInItsOnlyFlag := by
  intro c h p hp
  have hlen := stuff_length (content h p)
  rw [content_length] at hlen
  rw [uartFrame_length]
  exact ⟨rfl, flagByte_notMem_stuff _, by omega, by omega⟩

/-! ## No content is all FILL (40 R146) -/

theorem crcFrom_zeros {c : Half} {s : List Byte} (hs : ∀ x ∈ s, x = 0) (h : crcFrom c s = 0) : c = 0 := by
  induction s generalizing c with
  | nil => exact h
  | cons x s ih =>
    have hx : crcByte c x = 0 := ih (fun y hy => hs y (by simp [hy])) h
    rw [hs x (by simp)] at hx
    simpa using crcShifts_eq_zero hx

/-- Zeros do not bring the CRC register from 0xFFFF to 0, so a body of zeros has a trailer that is not. -/
theorem content_not_zeros (h : Hdr) (p : List Byte) : ¬ ∀ x ∈ content h p, x = 0 := by
  intro hz
  rw [content_eq, List.forall_mem_append] at hz
  obtain ⟨hbody, htrailer⟩ := hz
  generalize hdrBytes h p.length ++ p = body at hbody htrailer
  have hlo : lo8 (crc16 body) = 0 := htrailer _ (by simp)
  have hhi : hi8 (crc16 body) = 0 := htrailer _ (by simp)
  have hcrc : crc16 body = 0 := by
    apply BitVec.eq_of_toNat_eq
    rw [← u16le_lo8_hi8, hlo, hhi]
    rfl
  exact absurd (crcFrom_zeros hbody hcrc) (by decide)

/-- Settles O23: the CRC register that starts at 0xFFFF is never brought to 0 by zeros. -/
theorem noFrameIsAllFill : Obligations.NoFrameIsAllFill := by
  intro h p _
  simpa using content_not_zeros h p

theorem allFill_content_append (h : Hdr) (p q : List Byte) : allFill (content h p ++ q) = false := by
  rw [allFill, ← Bool.not_eq_true, List.all_eq_true]
  intro hz
  exact content_not_zeros h p fun x hx => by simpa [fillByte] using hz x (List.mem_append_left q hx)

end Sys2Proof.Machine
end

section
/-! Decode of encode for frames (40_codec R147): a content passes its own validation; the stuffed content fills the
stream decoder's buffer with the content and the FLAG validates it; DECODE_SPI reads the length and cuts off
the padding. -/

namespace Sys2Proof.Machine

open Sys2Proof.Spec

/-! ## A content passes its checks (40 R132, R138) -/

theorem ctrlReserved_eq_zero {ctrl : Byte} : ctrlReserved ctrl = 0 ↔ ctrl.toNat < 32 := by
  have := ctrl.isLt
  have zero : (0 : BitVec 3).toNat = 0 := rfl
  rw [← BitVec.toNat_inj, ctrlReserved, BitVec.extractLsb'_toNat, Nat.shiftRight_eq_div_pow, zero]
  omega

theorem hdrCheck_of_legalFrame {c : CommonCfg} {h : Hdr} {p : List Byte} (hl : LegalFrame c h p) :
    hdrCheck c h p.length = none := by
  obtain ⟨hlen, hep, hctrl, hseq, hack⟩ := hl
  simp [hdrCheck, ctrlReserved_eq_zero.2 hctrl, Nat.not_lt.2 hlen, Nat.not_le.2 hep, Nat.not_le.2 hseq,
    Nat.not_le.2 hack]

theorem byteAt_append_length (a b : List Byte) (i : Nat) : byteAt (a ++ b) (a.length + i) = byteAt b i := by
  simp [byteAt, List.getElem?_append_right]

/-- The length field of a content, whatever follows the content. -/
theorem lenField_content (h : Hdr) {p : List Byte} (hp : p.length ≤ 65535) (q : List Byte) :
    u16le (byteAt (content h p ++ q) 4) (byteAt (content h p ++ q) 5) = p.length := by
  have := u16le_lo8_hi8 (BitVec.ofNat 16 p.length)
  rw [BitVec.toNat_ofNat, Nat.mod_eq_of_lt (by omega)] at this
  exact this

theorem hdrOf_content (h : Hdr) (p : List Byte) : hdrOf (content h p) = h := rfl

theorem payload_content (h : Hdr) (p : List Byte) : ((content h p).drop hdrLen).take p.length = p := by
  rw [content_eq, List.append_assoc, show hdrLen = (hdrBytes h p.length).length from rfl, List.drop_left,
    List.take_left]

/-- The CRC over all but the last two bytes of a content is those two bytes. -/
theorem crc_content (h : Hdr) (p : List Byte) :
    (crc16 ((content h p).take ((content h p).length - 2))).toNat =
      u16le (byteAt (content h p) ((content h p).length - 2)) (byteAt (content h p) ((content h p).length - 1)) := by
  rw [content_eq]
  generalize hdrBytes h p.length ++ p = body
  have h2 : (body ++ [lo8 (crc16 body), hi8 (crc16 body)]).length - 2 = body.length + 0 := by simp
  have h1 : (body ++ [lo8 (crc16 body), hi8 (crc16 body)]).length - 1 = body.length + 1 := by simp
  rw [h2, h1, byteAt_append_length, byteAt_append_length, Nat.add_zero, List.take_left]
  exact (u16le_lo8_hi8 _).symm

theorem validate_content {c : CommonCfg} {h : Hdr} {p : List Byte} (hp : p.length ≤ 65535)
    (hl : LegalFrame c h p) : validate c (content h p) = .frame ⟨h, p⟩ := by
  have hlen : u16le (byteAt (content h p) 4) (byteAt (content h p) 5) = p.length := by
    simpa using lenField_content h hp []
  have long : ¬ (content h p).length < frameMin := by rw [content_length]; exact Nat.not_lt.2 (Nat.le_add_right _ _)
  have fits : p.length = (content h p).length - frameMin := by
    rw [content_length]; exact (Nat.add_sub_cancel_left ..).symm
  simp only [validate]
  rw [if_neg long, if_neg (not_not.2 (crc_content h p)), hlen, if_neg (not_not.2 fits), hdrOf_content,
    hdrCheck_of_legalFrame hl, payload_content]

/-- Padding after the content is not read (40 R146). -/
theorem decodeTransaction_content {c : CommonCfg} {h : Hdr} {p : List Byte} (hp : p.length ≤ 65535)
    (hl : LegalFrame c h p) (q : List Byte) :
    decodeTransaction c (content h p ++ q) = .verdict (.frame ⟨h, p⟩) := by
  have hlen : frameMin + p.length = (content h p).length := (content_length h p).symm
  have long : ¬ (content h p ++ q).length < frameMin + p.length := by rw [hlen]; simp
  have minimal : ¬ (content h p ++ q).length < frameMin := fun hs => long (hs.trans_le (Nat.le_add_right _ _))
  simp only [decodeTransaction]
  rw [allFill_content_append, if_neg (by simp), if_neg minimal, lenField_content h hp, if_neg (Nat.not_lt.2 hl.1),
    if_neg long, hlen, List.take_left, validate_content hp hl]

/-! ## A run of DEC_BYTE (40 R140 to R144) -/

/-- The stream decoder over `bs`: the decoder it leaves, and DEC_BYTE's result at each byte. -/
def decRun (c : CommonCfg) : Dec → List Byte → Dec × List DecResult
  | d, [] => (d, [])
  | d, x :: bs => ((decRun c (decStep c d x).1 bs).1, (decStep c d x).2 :: (decRun c (decStep c d x).1 bs).2)

theorem decRun_append (c : CommonCfg) (d : Dec) (as bs : List Byte) :
    decRun c d (as ++ bs) =
      ((decRun c (decRun c d as).1 bs).1, (decRun c d as).2 ++ (decRun c (decRun c d as).1 bs).2) := by
  induction as generalizing d with
  | nil => rfl
  | cons x as ih => simp only [List.cons_append, decRun, ih]

theorem common_setDec (b : Block) (d : Dec) : (b.setDec d).common? = b.common? := rfl

theorem exec_decByte {s : State} {c : CommonCfg} (hc : s.block.common? = some c) (x : Byte) :
    exec (.decByte x) s =
      .next (s.finish (s.block.setDec (decStep c s.block.dec x).1) (.dec (decStep c s.block.dec x).2)) :=
  needCommon_of hc _

/-- The machine under a run of DEC_BYTE: DEC and the results are those of `decRun`, and nothing else of the block
moves. -/
theorem runOps_decByte {c : CommonCfg} (bs : List Byte) {s : State} (rs : List Result)
    (hc : s.block.common? = some c) :
    ∃ t, runOps (bs.map .decByte) (s, rs) = .next (t, rs ++ (decRun c s.block.dec bs).2.map .dec) ∧
      t.block = s.block.setDec (decRun c s.block.dec bs).1 := by
  induction bs generalizing s rs with
  | nil => exact ⟨s, by simp [runOps, decRun], rfl⟩
  | cons x bs ih =>
    obtain ⟨t, ht, hb⟩ := ih (s := s.finish (s.block.setDec (decStep c s.block.dec x).1)
      (.dec (decStep c s.block.dec x).2)) (rs ++ [.dec (decStep c s.block.dec x).2]) hc
    refine ⟨t, ?_, hb⟩
    simp only [List.map_cons, runOps, runOp, exec_decByte hc, bindRun]
    rw [State.finish_result, ht]
    simp [decRun]

/-! ## The stream decoder on a wire frame -/

/-- A decoder inside a region that nothing has marked, with no escape open. -/
def Dec.filled (buf : List Byte) : Dec := { buf, esc := false, bad := .none }

theorem Dec.init_eq_filled : Dec.init = .filled [] := rfl

section
variable {c : CommonCfg} {buf : List Byte}

theorem appendData_filled {e : Bool} (h : buf.length < frameMaxOf c.maxPayload) (x : Byte) :
    appendData c { buf, esc := e, bad := .none } x = { buf := buf ++ [x], esc := e, bad := .none } := by
  simp [appendData, h.ne]

theorem decStep_esc_filled :
    decStep c (.filled buf) escByte = ({ buf, esc := true, bad := .none }, .needMoreData) := rfl

theorem decStep_escaped (h : buf.length < frameMaxOf c.maxPayload) {x : Byte} (hx : x = 0x5E ∨ x = 0x5D) :
    decStep c { buf, esc := true, bad := .none } x = (.filled (buf ++ [x ^^^ escXor]), .needMoreData) := by
  have hf : x ≠ flagByte := by rcases hx with rfl | rfl <;> decide
  simp only [decStep, if_neg hf, if_pos hx, ne_eq, not_true_eq_false, if_false, if_true, appendData_filled h]
  rfl

theorem decStep_plain_filled (h : buf.length < frameMaxOf c.maxPayload) {x : Byte} (hf : x ≠ flagByte)
    (he : x ≠ escByte) : decStep c (.filled buf) x = (.filled (buf ++ [x]), .needMoreData) := by
  simp [decStep, Dec.filled, hf, he, appendData_filled h]

theorem decStep_flag_filled (h : buf ≠ []) :
    decStep c (.filled buf) flagByte = (Dec.init, .verdict (validate c buf)) := by
  simp [decStep, regionResult, Dec.filled, markReason, h]

theorem decRun_stuffByte (h : buf.length < frameMaxOf c.maxPayload) (b : Byte) :
    decRun c (.filled buf) (stuffByte b) =
      (.filled (buf ++ [b]), List.replicate (stuffByte b).length .needMoreData) := by
  by_cases hf : b = flagByte
  · subst hf
    rw [stuffByte_flag, decRun, decRun, decStep_esc_filled, decStep_escaped h (.inl rfl)]
    rfl
  · by_cases he : b = escByte
    · subst he
      rw [stuffByte_esc, decRun, decRun, decStep_esc_filled, decStep_escaped h (.inr rfl)]
      rfl
    · rw [stuffByte_plain hf he, decRun, decStep_plain_filled h hf he]
      rfl

/-- While the buffer has room, stuffed bytes arrive in it as they were before stuffing, one NEED_MORE_DATA each. -/
theorem decRun_stuff {s : List Byte} (h : buf.length + s.length ≤ frameMaxOf c.maxPayload) :
    decRun c (.filled buf) (stuff s) = (.filled (buf ++ s), List.replicate (stuff s).length .needMoreData) := by
  induction s generalizing buf with
  | nil => simp [stuff, decRun]
  | cons b s ih =>
    rw [List.length_cons] at h
    rw [stuff_cons, decRun_append, decRun_stuffByte (by omega), ih (by simp; omega)]
    simp

end

theorem decRun_uartFrame {c : CommonCfg} {h : Hdr} {p : List Byte} (hp : p.length ≤ 65535) (hl : LegalFrame c h p) :
    decRun c Dec.init (uartFrame h p) =
      (Dec.init,
        List.replicate ((uartFrame h p).length - 1) .needMoreData ++ [.verdict (.frame ⟨h, p⟩)]) := by
  have hlen : (content h p).length ≤ frameMaxOf c.maxPayload := by
    rw [content_length]
    exact Nat.add_le_add_left hl.1 8
  have hne : content h p ≠ [] := List.ne_nil_of_length_pos (by rw [content_length]; omega)
  have hstuff := decRun_stuff (c := c) (buf := []) (s := content h p) (by simpa using hlen)
  rw [List.nil_append, ← Dec.init_eq_filled] at hstuff
  rw [uartFrame_length, Nat.add_sub_cancel, uartFrame, decRun_append, hstuff]
  simp [decRun, decStep_flag_filled hne, validate_content hp hl]

/-! ## The round trip -/

theorem encodeWith_of_legalFrame {form : Hdr → List Byte → List Byte} {s : State} {c : CommonCfg} {h : Hdr}
    {p : List Byte} (hc : s.block.common? = some c) (hl : LegalFrame c h p) :
    encodeWith form h p s = .next (s.finish s.block (.bytes (form h p))) := by
  rw [encodeWith, needCommon_of hc, hdrCheck_of_legalFrame hl]
  rfl

theorem exec_decodeSpi {s : State} {c : CommonCfg} (hc : s.block.common? = some c) (t : List Byte) :
    exec (.decodeSpi t) s = .next (s.finish s.block (.spiDec (decodeTransaction c t))) :=
  needCommon_of hc _

/-- Settles O25: the encoders answer the two wire forms, and each decoder undoes its own. -/
theorem codecRoundTrip : Obligations.CodecRoundTrip := by
  intro s c h p hc hmax hl
  have hp : p.length ≤ 65535 := hl.1.trans hmax
  constructor
  · intro hdec
    replace hdec : s.block.dec = Dec.init := hdec
    obtain ⟨t, ht, hb⟩ := runOps_decByte (uartFrame h p) [] hc
    rw [hdec, decRun_uartFrame hp hl] at ht hb
    refine ⟨_, uartFrame h p, t, encodeWith_of_legalFrame hc hl, rfl, ?_, ?_⟩
    · simpa using ht
    · rw [hb, ← hdec]
      rfl
  · exact ⟨_, spiFrame h p, encodeWith_of_legalFrame hc hl, rfl, fun q =>
      ⟨_, exec_decodeSpi hc _, congrArg Result.spiDec (decodeTransaction_content hp hl q), rfl⟩⟩

end Sys2Proof.Machine
end

section
/-! UART_TX_DRAIN (30_encoding R106): each UART_TX_BYTE sends the first byte the block owes its wire and leaves the rest
owed, until the queue is empty. -/

namespace Sys2Proof.Machine

open Sys2Proof.Safety

/-- The bytes of accepted frames that are still to be sent. -/
def owedBytes (b : Block) (u : UartState) : List Byte := b.txQueue.flatten.drop u.txPos

theorem txStream_eq (b : Block) (u : UartState) : txStream b u = u.wireTx ++ owedBytes b u := rfl

/-! ## The head of the owed bytes -/

theorem drop_flatten_of_lt_head {q : List (List Byte)} {n : Nat} (h : n < (headFrame q).length) :
    q.flatten.drop n = byteAt (headFrame q) n :: q.flatten.drop (n + 1) := by
  cases q with
  | nil => simp at h
  | cons f q =>
    rw [headFrame_cons] at h ⊢
    have hn : n < (f :: q).flatten.length := by rw [List.flatten_cons, List.length_append]; omega
    rw [List.drop_eq_getElem_cons hn]
    simp [byteAt, List.getElem_append_left h, List.getElem?_eq_getElem h]

theorem drop_flatten_head (q : List (List Byte)) : q.flatten.drop (headFrame q).length = (deq q).flatten := by
  cases q with
  | nil => rfl
  | cons f q => simp

/-- Sending a byte moves the first owed byte to the wire, at the last byte of a frame and before it. -/
theorem sendByte_owed {b : Block} {u : UartState} (h : u.txPos < (headFrame b.txQueue).length) :
    ∃ u', (sendByte b u).1.adapter = .uart u' ∧ u'.mode = u.mode ∧ u'.ctsIn = u.ctsIn ∧
      u'.wireTx = u.wireTx ++ [(sendByte b u).2] ∧
      owedBytes b u = (sendByte b u).2 :: owedBytes (sendByte b u).1 u' := by
  rw [sendByte_result, owedBytes, drop_flatten_of_lt_head h]
  by_cases hl : u.txPos + 1 = (headFrame b.txQueue).length
  · rw [sendByte_last hl, hl, drop_flatten_head]
    exact ⟨_, rfl, rfl, rfl, rfl, rfl⟩
  · rw [sendByte_more hl]
    exact ⟨_, rfl, rfl, rfl, rfl, rfl⟩

/-! ## The drain -/

theorem exec_uartTxByte_of_enabled {s : State} {u : UartState} (ha : s.block.adapter = .uart u)
    (he : txEnabled s.block.txQueue u = true) :
    exec .uartTxByte s =
      .next ((s.finish (sendByte s.block u).1 (.byteSent (sendByte s.block u).2)).setHeld false) := by
  simp [exec, execUartTxByte, needUart_of ha, he]

theorem drain_of_disabled {s : State} (k : Nat) (rs : List Result) (h : s.txEnabled = false) :
    drain k (s, rs) = .next (s, rs) := by
  cases k with
  | zero => rfl
  | succ k => simp [drain, h]

/-- A configured UART instance whose TXE is not held back by flow control. -/
structure Unblocked (s : State) (u : UartState) (c : UartCfg) : Prop where
  inv     : MachineInv s
  adapter : s.block.adapter = .uart u
  mode    : u.mode = .configured c
  clear   : c.flow = .none ∨ u.ctsIn = true

theorem Unblocked.running {s : State} {u : UartState} {c : UartCfg} (h : Unblocked s u c) :
    UartRunning c s.block u :=
  (uartInv_configured h.mode).1 ((blockInv_uart h.adapter).1 h.inv).2

theorem Unblocked.txEnabled_eq {s : State} {u : UartState} {c : UartCfg} (h : Unblocked s u c) :
    txEnabled s.block.txQueue u = !s.block.txQueue.isEmpty := by
  rcases h.clear with hf | hc
  · simp [txEnabled, h.mode, hf]
  · simp [txEnabled, h.mode, hc]

/-- At most `k` UART_TX_BYTE from `s` end with an empty queue and every owed byte sent, a result for each. -/
def DrainSendsOwed (k : Nat) (s : State) (u : UartState) (rs : List Result) : Prop :=
  ∃ t u', drain k (s, rs) = .next (t, rs ++ (owedBytes s.block u).map .byteSent) ∧
    t.block.adapter = .uart u' ∧ t.block.txQueue = [] ∧ u'.wireTx = u.wireTx ++ owedBytes s.block u

theorem drainSendsOwed_of_empty {s : State} {u : UartState} (ha : s.block.adapter = .uart u)
    (hq : s.block.txQueue = []) (k : Nat) (rs : List Result) : DrainSendsOwed k s u rs := by
  have off : s.txEnabled = false := by
    rw [State.txEnabled, txEnabled_of_uart ha, hq, txEnabled_nil_queue]
  have nothing : owedBytes s.block u = [] := by simp [owedBytes, hq]
  exact ⟨s, u, by simp [drain_of_disabled k rs off, nothing], ha, hq, by simp [nothing]⟩

/-- With a frame queued the first UART_TX_BYTE sends a byte, and the instance is unblocked with one byte less owed. -/
theorem Unblocked.drain_succ {s : State} {u : UartState} {c : UartCfg} (h : Unblocked s u c)
    (hq : s.block.txQueue ≠ []) :
    ∃ s' u' x, Unblocked s' u' c ∧ (∀ k rs, drain (k + 1) (s, rs) = drain k (s', rs ++ [.byteSent x])) ∧
      u'.wireTx = u.wireTx ++ [x] ∧ owedBytes s.block u = x :: owedBytes s'.block u' := by
  have on : txEnabled s.block.txQueue u = true := by simp [h.txEnabled_eq, hq]
  have hs : s.txEnabled = true := (txEnabled_of_uart h.adapter).trans on
  have hexec := exec_uartTxByte_of_enabled h.adapter on
  obtain ⟨u', ha', hm', hc', hwire, howed⟩ := sendByte_owed (h.running.posHead hq)
  refine ⟨_, u', _, ⟨exec_machineInv h.inv hexec, ha', hm'.trans h.mode, hc' ▸ h.clear⟩, fun k rs => ?_, hwire,
    howed⟩
  simp only [drain, hs, if_true, runOp, hexec, bindRun]
  rfl

/-- By induction on the bound: as many steps as bytes owed are enough. -/
theorem Unblocked.drainSendsOwed {k : Nat} {s : State} {u : UartState} {c : UartCfg} (h : Unblocked s u c)
    (rs : List Result) (hk : (owedBytes s.block u).length ≤ k) : DrainSendsOwed k s u rs := by
  by_cases hq : s.block.txQueue = []
  · exact drainSendsOwed_of_empty h.adapter hq k rs
  · obtain ⟨s', u', x, h', hdrain, hwire, howed⟩ := h.drain_succ hq
    rw [howed, List.length_cons] at hk
    cases k with
    | zero => omega
    | succ k =>
      obtain ⟨t, v, hrun, hv, hempty, hsent⟩ := h'.drainSendsOwed (rs ++ [.byteSent x]) (Nat.le_of_succ_le_succ hk)
      refine ⟨t, v, ?_, hv, hempty, ?_⟩
      · simpa [hdrain, howed] using hrun
      · simpa [hwire, howed] using hsent
termination_by k

/-- Settles O37: the pseudo-operation's bound, all bytes of the queue, is enough for the owed ones. -/
theorem drainSendsEverything : Obligations.DrainSendsEverything := by
  intro s u c hinv ha hm hclear
  have enough : (owedBytes s.block u).length ≤ pendingCount s := by
    rw [owedBytes, List.length_drop]
    exact Nat.sub_le _ _
  obtain ⟨t, u', hrun, ha', hempty, hwire⟩ := (Unblocked.mk hinv ha hm hclear).drainSendsOwed [] enough
  exact ⟨t, u', _, hrun, ha', hempty, hwire, rfl⟩

end Sys2Proof.Machine
end

section
/-! The codec operations one at a time (40_codec R131 to R146). Each needs the common configuration but CRC16, and its
result is that of the function behind it: the ordered checks of a header and of a content, the five cases of the stream
decoder, the cuts of DECODE_SPI. -/

namespace Sys2Proof.Machine

open Sys2Proof.Spec

/-! ## CRC16 and the guard (40 R131, R134) -/

/-- Settles O12: CRC16 asks for no configuration, and the four listed values are computed. -/
theorem crc16RunsInEveryMode : Obligations.Crc16RunsInEveryMode :=
  ⟨fun _ _ => rfl, by decide, by decide, by decide, by decide +kernel⟩

theorem needCommon_of_none {s : State} (h : s.block.common? = none) (k : CommonCfg → Out) :
    needCommon s k = .fault (.notConfigured s.stepIndex) := by
  simp [needCommon, h]

theorem common_eq_none_of_unconfigured {b : Block} (h : b.modeName = .unconfigured) : b.common? = none := by
  cases hc : b.common? with
  | none => rfl
  | some c => simp [Block.modeName, hc] at h

/-- Settles O24: the five operations start with the guard on the configuration, and CRC16 has none. -/
theorem codecNeedsConfiguration : Obligations.CodecNeedsConfiguration := by
  intro s h p x hm
  have hc := common_eq_none_of_unconfigured hm
  exact ⟨needCommon_of_none hc _, needCommon_of_none hc _, needCommon_of_none hc _, needCommon_of_none hc _,
    needCommon_of_none hc _, _, rfl, rfl⟩

/-! ## Checks in their order (40 R132, R138) -/

theorem firstOf_nil {α : Type} : firstOf ([] : List (Bool × α)) = none := rfl

theorem firstOf_cons {α : Type} (q : Prop) [Decidable q] (r : α) (l : List (Bool × α)) :
    firstOf ((decide q, r) :: l) = if q then some r else firstOf l := by
  by_cases h : q <;> simp [firstOf, h]

theorem firstOf_cons_elim {α β : Type} (q : Prop) [Decidable q] (r : α) (l : List (Bool × α)) (x : β) (f : α → β) :
    (firstOf ((decide q, r) :: l)).elim x f = if q then f r else (firstOf l).elim x f := by
  by_cases h : q <;> simp [firstOf, h]

theorem firstOf_map {α β : Type} (f : α → β) (l : List (Bool × α)) :
    firstOf (l.map (Prod.map id f)) = (firstOf l).map f := by
  induction l with
  | nil => rfl
  | cons a l ih =>
    obtain ⟨q, r⟩ := a
    cases q with
    | false => exact ih
    | true => rfl

theorem ctrlReserved_ne_zero {ctrl : Byte} : ctrlReserved ctrl ≠ 0 ↔ ctrl.toNat ≥ 32 := by
  rw [Ne, ctrlReserved_eq_zero, Nat.not_lt]

theorem hdrCheck_eq_firstOf (c : CommonCfg) (h : Hdr) (n : Nat) : hdrCheck c h n = firstOf (hdrRows c h n) := by
  simp only [hdrCheck, hdrRows, firstOf_cons, firstOf_nil, ctrlReserved_ne_zero, GT.gt, GE.ge]

/-- An encode answers the first reason of the header check, or the bytes of its form. -/
theorem encodeWith_of_common {s : State} {c : CommonCfg} (hc : s.block.common? = some c)
    (form : Hdr → List Byte → List Byte) (h : Hdr) (p : List Byte) :
    encodeWith form h p s =
      .next (s.finish s.block ((firstOf (hdrRows c h p.length)).elim (.bytes (form h p)) .encErr)) := by
  rw [encodeWith, needCommon_of hc, hdrCheck_eq_firstOf]
  cases firstOf (hdrRows c h p.length) <;> rfl

/-- Settles O17: an encode with the stuffed form. -/
theorem encodeUartResult : Obligations.EncodeUartResult := by
  refine ⟨fun s c h p hc => (encodeWith_of_common hc uartFrame h p).trans ?_, fun s h p hc => needCommon_of_none hc _⟩
  cases firstOf (hdrRows c h p.length) <;> rfl

/-- Settles O18: an encode with the content as it is. -/
theorem encodeSpiResult : Obligations.EncodeSpiResult := by
  refine ⟨fun s c h p hc => (encodeWith_of_common hc spiFrame h p).trans ?_, fun s h p hc => needCommon_of_none hc _⟩
  cases firstOf (hdrRows c h p.length) <;> rfl

/-- The last four rows of a content are those of its header. -/
theorem contentRows_eq_hdrRows (c : CommonCfg) (b : List Byte) (len : Nat) :
    contentRows c b len =
      (contentRows c b len).take 3 ++ (hdrRows c (hdrOf b) len).map (Prod.map id corruptOfHdr) := rfl

/-- The trailer and the length are the first three rows, and the header check gives the other four. -/
theorem validate_eq_elim (c : CommonCfg) (b : List Byte) :
    validate c b =
      (firstOf (contentRows c b (u16le (byteAt b 4) (byteAt b 5)))).elim
        (.frame ⟨hdrOf b, (b.drop hdrLen).take (u16le (byteAt b 4) (byteAt b 5))⟩) .corrupt := by
  rw [contentRows_eq_hdrRows]
  simp only [contentRows, List.take_succ_cons, List.take_zero, List.cons_append, List.nil_append, firstOf_cons_elim,
    firstOf_map, ← hdrCheck_eq_firstOf, validate]
  cases hdrCheck c (hdrOf b) (u16le (byteAt b 4) (byteAt b 5)) <;> rfl

/-- Settles O19: `validate` is the first of the rows that applies, or the frame. -/
theorem validateReportsTheFirstFailure : Obligations.ValidateReportsTheFirstFailure := by
  rintro c b len rfl
  rw [validate_eq_elim]
  simp only [u16le, byteAt]
  cases firstOf (contentRows c b ((b.getD 4 0).toNat + 256 * (b.getD 5 0).toNat)) <;> rfl

/-! ## DECODE_SPI (40 R146) -/

theorem allFill_iff (s : List Byte) : allFill s = true ↔ ∀ x ∈ s, x = 0 := by
  simp [allFill, fillByte]

/-- Settles O22: the answer is `decodeTransaction`'s, whose cuts come in the rule's order. -/
theorem decodeSpiResult : Obligations.DecodeSpiResult := by
  refine ⟨?_, fun s data hc => needCommon_of_none hc _⟩
  rintro s c data len hc rfl
  rw [exec_decodeSpi hc]
  simp only [decodeTransaction, allFill_iff]
  rfl

end Sys2Proof.Machine
end

section
/-! The stream decoder (40_codec R140 to R145): what DEC_BYTE does in each of its cases, DECODE_UART as a run of it, and
the resynchronisation of R148. -/

namespace Sys2Proof.Machine

open Sys2Proof.Spec

/-! ## The five cases of DEC_BYTE (40 R140 to R144) -/

section
variable {c : CommonCfg} {d : Dec} {buf : List Byte} {x : Byte}

theorem decStep_flag (c : CommonCfg) (d : Dec) : decStep c d flagByte = (Dec.init, regionResult c d) := rfl

theorem regionResult_badEscape (h : d.bad = .badEscape ∨ d.bad = .none ∧ d.esc = true) :
    regionResult c d = .verdict (.corrupt .badEscape) := by
  rcases h with hb | ⟨hb, he⟩
  · simp [regionResult, hb, markReason]
  · simp [regionResult, hb, he, markReason]

theorem regionResult_overflow (hb : d.bad = .overflow) : regionResult c d = .verdict (.corrupt .overflow) := by
  simp [regionResult, hb, markReason]

theorem regionResult_filled :
    regionResult c (.filled buf) = if buf = [] then .needMoreData else .verdict (validate c buf) := rfl

theorem decStep_marked (hf : x ≠ flagByte) (hb : d.bad ≠ .none) : decStep c d x = (d, .needMoreData) := by
  rw [decStep, if_neg hf, if_pos hb]

theorem decStep_escapePair (hx : x = 0x5E ∨ x = 0x5D) :
    decStep c ⟨buf, true, .none⟩ x = (appendData c (.filled buf) (x ^^^ escXor), .needMoreData) := by
  rcases hx with rfl | rfl <;> rfl

theorem decStep_badEscape (hf : x ≠ flagByte) (hx : ¬ (x = 0x5E ∨ x = 0x5D)) :
    decStep c ⟨buf, true, .none⟩ x = (⟨buf, false, .badEscape⟩, .needMoreData) := by
  rw [decStep, if_neg hf, if_neg (not_not.2 rfl), if_pos rfl, if_neg hx]

theorem decStep_plain (hf : x ≠ flagByte) (he : x ≠ escByte) :
    decStep c (.filled buf) x = (appendData c (.filled buf) x, .needMoreData) := by
  simp [decStep, Dec.filled, hf, he]

theorem appendData_full (h : buf.length = 8 + c.maxPayload) :
    appendData c (.filled buf) x = ⟨[], false, .overflow⟩ := if_pos h

theorem appendData_room (h : buf.length ≠ 8 + c.maxPayload) :
    appendData c (.filled buf) x = .filled (buf ++ [x]) := if_neg h

end

theorem exec_decByte_of_decStep {s : State} {c : CommonCfg} {x : Byte} {d : Dec} {r : DecResult}
    (hc : s.block.common? = some c) (h : decStep c s.block.dec x = (d, r)) :
    exec (.decByte x) s = .next
      { s with block := { s.block with dec := d }, result := .dec r, stepIndex := s.stepIndex + 1 } := by
  rw [exec_decByte hc, h]
  rfl

/-- Settles O20: one case of the decoder for each clause, and the guard. -/
theorem decByteFollowsItsFiveCases : Obligations.DecByteFollowsItsFiveCases := by
  refine ⟨fun s c x hc => ?_, fun s x hc => needCommon_of_none hc _⟩
  have answers {d r} (h : decStep c s.block.dec x = (d, r)) := exec_decByte_of_decStep hc h
  dsimp only
  generalize s.block.dec = d at answers ⊢
  have flagged {r} (hx : x = flagByte) (h : regionResult c d = r) :=
    answers ((congrArg _ hx).trans ((decStep_flag c d).trans (congrArg _ h)))
  have appends {buf y} (h : decStep c d x = (appendData c (.filled buf) y, .needMoreData)) :=
    And.intro (fun full => answers (h.trans (congrArg (·, _) (appendData_full full))))
      (fun room => answers (h.trans (congrArg (·, _) (appendData_room room))))
  obtain ⟨buf, esc, bad⟩ := d
  refine ⟨?_, ?_, ?_, ?_, ?_, ?_, ?_, ?_, ?_, ?_⟩
  · exact fun hx hbad => flagged hx (regionResult_badEscape hbad)
  · exact fun hx hbad => flagged hx (regionResult_overflow hbad)
  · rintro hx rfl rfl hbuf
    exact flagged hx (regionResult_filled.trans (if_pos hbuf))
  · rintro hx rfl rfl hbuf
    exact flagged hx (regionResult_filled.trans (if_neg hbuf))
  · exact fun hx hbad => answers (decStep_marked hx hbad)
  · rintro rfl rfl rfl
    exact appends (decStep_escapePair (.inl rfl))
  · rintro rfl rfl rfl
    exact appends (decStep_escapePair (.inr rfl))
  · rintro hf hx hx' rfl rfl
    exact answers (decStep_badEscape hf (not_or.2 ⟨hx, hx'⟩))
  · rintro rfl rfl rfl
    exact answers decStep_esc_filled
  · rintro hf he rfl rfl
    exact appends (decStep_plain hf he)

/-! ## DECODE_UART (40 R145) -/

/-- What DEC_BYTE answers on the `n` bytes a DECODE_UART with the result `r` consumed. -/
def streamAnswers (r : DecResult) (n : Nat) : List DecResult :=
  match r with
  | .needMoreData => List.replicate n .needMoreData
  | .verdict v => List.replicate (n - 1) .needMoreData ++ [.verdict v]

theorem streamResults_eq_map (r : DecResult) (n : Nat) : streamResults r n = (streamAnswers r n).map .dec := by
  cases r <;> simp [streamResults, streamAnswers]

theorem streamAnswers_succ {r : DecResult} {n : Nat} (h : r ≠ .needMoreData → 1 ≤ n) :
    streamAnswers r (n + 1) = .needMoreData :: streamAnswers r n := by
  cases r with
  | needMoreData => rfl
  | verdict v =>
    obtain ⟨m, rfl⟩ : ∃ m, n = m + 1 := ⟨n - 1, (Nat.sub_add_cancel (h (by simp))).symm⟩
    rfl

/-- The decoder stops after `n` bytes of `data` with the result `r`, and leaves `d'`: it read all of them without a
result, or the last of the `n` gave it. -/
structure StopsAt (c : CommonCfg) (d : Dec) (data : List Byte) (d' : Dec) (r : DecResult) (n : Nat) : Prop where
  within : n ≤ data.length
  whole : r = .needMoreData → n = data.length
  nonempty : r ≠ .needMoreData → 1 ≤ n
  run : decRun c d (data.take n) = (d', streamAnswers r n)

theorem decodeStream_stopsAt (c : CommonCfg) (d : Dec) (data : List Byte) :
    StopsAt c d data (decodeStream c d data).1 (decodeStream c d data).2.1 (decodeStream c d data).2.2 := by
  induction data generalizing d with
  | nil => exact ⟨le_rfl, fun _ => rfl, fun h => absurd rfl h, rfl⟩
  | cons x data ih =>
    cases hx : decStep c d x with
    | mk d' r =>
      cases r with
      | needMoreData =>
        obtain ⟨within, whole, nonempty, run⟩ := ih d'
        simp only [decodeStream, hx]
        refine ⟨Nat.succ_le_succ within, fun h => congrArg Nat.succ (whole h), fun _ => Nat.succ_pos _, ?_⟩
        rw [List.take_succ_cons, decRun, hx, run, streamAnswers_succ nonempty]
      | verdict v =>
        simp only [decodeStream, hx]
        exact ⟨by simp, by simp, fun _ => le_rfl, by simp [decRun, hx, streamAnswers]⟩

/-- Settles O21: the bytes consumed are those of a run of DEC_BYTE that stops at its first result. -/
theorem decodeUartIsRepeatedDecByte : Obligations.DecodeUartIsRepeatedDecByte := by
  refine ⟨fun s c data hc => ?_, fun s data hc => needCommon_of_none hc _⟩
  obtain ⟨within, whole, nonempty, run⟩ := decodeStream_stopsAt c s.block.dec data
  obtain ⟨t, ht, hb⟩ := runOps_decByte (data.take (decodeStream c s.block.dec data).2.2) [] hc
  rw [run] at ht hb
  refine ⟨_, _, _, t, needCommon_of hc _, rfl, within, whole, nonempty, ?_, ?_⟩
  · rw [ht, streamResults_eq_map, List.nil_append]
  · rw [hb]
    rfl

/-! ## Resynchronisation (40 R148) -/

theorem decRun_append_flag (c : CommonCfg) (d : Dec) (g : List Byte) :
    (decRun c d (g ++ [flagByte])).1 = Dec.init := by
  rw [decRun_append]
  rfl

/-- A run of DEC_BYTE that ends with FLAG leaves the decoder initial and nothing else changed. -/
theorem runOps_decByte_append_flag {s : State} {c : CommonCfg} (hc : s.block.common? = some c) (g : List Byte) :
    ∃ t rs, runOps ((g ++ [flagByte]).map .decByte) (s, []) = .next (t, rs) ∧
      t.block = s.block.setDec Dec.init := by
  obtain ⟨t, ht, hb⟩ := runOps_decByte (g ++ [flagByte]) [] hc
  rw [decRun_append_flag] at hb
  exact ⟨t, _, ht, hb⟩

/-- Settles O26: the FLAG leaves the initial decoder, and from there a wire frame is decoded as itself. -/
theorem flagResynchronisesTheDecoder : Obligations.FlagResynchronisesTheDecoder := by
  intro s c g h p hc hmax hl
  obtain ⟨t, rs, ht, hb⟩ := runOps_decByte_append_flag hc g
  have hct : t.block.common? = some c := by rw [hb, common_setDec, hc]
  have hdec : t.block.dec = Dec.init := by rw [hb, Block.setDec_dec]
  obtain ⟨t', ht', hb'⟩ := runOps_decByte (uartFrame h p) rs hct
  rw [hdec, decRun_uartFrame (hl.1.trans hmax) hl] at ht' hb'
  refine ⟨t, rs, t', ht, hdec, ?_, by rw [hb', Block.setDec_dec]; rfl⟩
  simpa using ht'

end Sys2Proof.Machine
end

section
/-! The CRC as a division (40_codec R130) and what it detects (R149): taking in a byte at once is taking in its bits one
by one, so one changed byte of a content, its trailer included, fails the validation. -/

namespace Sys2Proof.Machine

open Sys2Proof.Spec

/-! ## The bit-serial register (40 R130) -/

/-- The first `k` bits that leave the top of a register. -/
def topBits : Nat → Half → List Bool
  | 0, _ => []
  | k + 1, y => y.msb :: topBits k (y <<< 1)

/-- A shift with `y` on the register takes in the top bit of `y` and leaves the rest of it there. -/
theorem crcShift_xor_eq_serialBit (c y : Half) : crcShift (c ^^^ y) = crcSerialBit c y.msb ^^^ (y <<< 1) := by
  rw [crcShift, crcSerialBit, BitVec.msb_xor, BitVec.shiftLeft_xor_distrib, Bool.bne_eq_xor]
  cases c.msb ^^ y.msb with
  | false => rfl
  | true => simp [crcPoly, BitVec.xor_assoc, BitVec.xor_comm (y <<< 1)]

theorem crcShifts_xor_eq_foldl (k : Nat) (c y : Half) :
    crcShifts k (c ^^^ y) = (topBits k y).foldl crcSerialBit c ^^^ (y <<< k) := by
  induction k generalizing c y with
  | zero => simp [crcShifts, topBits]
  | succ k ih =>
    rw [crcShifts, crcShift_xor_eq_serialBit, ih, topBits, List.foldl_cons, ← BitVec.shiftLeft_add, Nat.add_comm 1 k]

/-- The bits of a byte at the top of the register. -/
theorem topBits_byte (b : Byte) : topBits 8 (b.setWidth 16 <<< 8) = msbFirst b := by
  simp [topBits, msbFirst, BitVec.msb_eq_getLsbD_last]

theorem byte_shifted_out (b : Byte) : (b.setWidth 16 <<< 8) <<< 8 = (0 : Half) := by
  rw [← BitVec.shiftLeft_add]
  exact BitVec.shiftLeft_eq_zero le_rfl

theorem crcByte_eq_foldl (c : Half) (b : Byte) : crcByte c b = (msbFirst b).foldl crcSerialBit c := by
  rw [crcByte, crcShifts_xor_eq_foldl, topBits_byte, byte_shifted_out]
  exact BitVec.xor_zero

/-- Settles O13: byte by byte, the 8 shifts take in the byte's bits from the top. -/
theorem crcIsTheBitSerialDivision : Obligations.CrcIsTheBitSerialDivision := by
  intro s
  rw [List.foldl_flatMap, crc16, crcFrom]
  congr 1
  funext c b
  exact crcByte_eq_foldl c b

/-! ## One changed byte fails the validation (40 R138, R149) -/

theorem validate_crcMismatch {c : CommonCfg} {body : List Byte} {a b : Byte} (hbody : 6 ≤ body.length)
    (h : (crc16 body).toNat ≠ u16le a b) : validate c (body ++ [a, b]) = .corrupt .crcMismatch := by
  have h2 : (body ++ [a, b]).length - 2 = body.length + 0 := by simp
  have h1 : (body ++ [a, b]).length - 1 = body.length + 1 := by simp
  have long : ¬ (body ++ [a, b]).length < frameMin := by
    rw [List.length_append]
    exact Nat.not_lt.2 (Nat.add_le_add_right hbody 2)
  simp only [validate]
  rw [if_neg long, h2, h1, byteAt_append_length, byteAt_append_length, Nat.add_zero, List.take_left]
  exact if_pos h

/-- A changed byte is one of the body, which changes the CRC, or one of the trailer, which is the CRC. -/
theorem validate_content_set {c : CommonCfg} {h : Hdr} {p : List Byte} {j : Nat} {x : Byte} (hj : j < 8 + p.length)
    (hx : x ≠ byteAt (content h p) j) : validate c ((content h p).set j x) = .corrupt .crcMismatch := by
  have hbody : (hdrBytes h p.length ++ p).length = 6 + p.length := by simp [hdrBytes_length]
  rw [content_eq] at hx ⊢
  generalize hdrBytes h p.length ++ p = body at hbody hx ⊢
  have trailer := u16le_lo8_hi8 (crc16 body)
  rw [List.set_append]
  by_cases hin : j < body.length
  · rw [if_pos hin]
    refine validate_crcMismatch (by rw [List.length_set]; omega) ?_
    rw [trailer]
    refine fun heq => crcFrom_set_ne crcInit body hin ?_ (BitVec.eq_of_toNat_eq heq)
    simpa [byteAt, List.getElem?_append_left hin] using hx
  · rw [if_neg hin]
    obtain ⟨i, rfl⟩ := Nat.exists_eq_add_of_le (Nat.not_lt.1 hin)
    rw [byteAt_append_length] at hx
    rw [Nat.add_sub_cancel_left]
    match i, hj with
    | 0, _ =>
      refine validate_crcMismatch (by omega) fun heq => hx ?_
      exact (u16le_inj (heq.symm.trans trailer.symm)).1
    | 1, _ =>
      refine validate_crcMismatch (by omega) fun heq => hx ?_
      exact (u16le_inj (heq.symm.trans trailer.symm)).2
    | i + 2, hj => omega

/-! ## Over UART -/

/-- The stuffed bytes of a sequence that fits the buffer, and a FLAG: validated as they were before stuffing. -/
theorem decRun_stuff_flag {c : CommonCfg} {w : List Byte} (hne : w ≠ []) (hw : w.length ≤ frameMaxOf c.maxPayload) :
    decRun c Dec.init (stuff w ++ [flagByte]) =
      (Dec.init, List.replicate (stuff w).length .needMoreData ++ [.verdict (validate c w)]) := by
  have hstuff := decRun_stuff (c := c) (buf := []) (s := w) (by simpa using hw)
  rw [List.nil_append, ← Dec.init_eq_filled] at hstuff
  rw [decRun_append, hstuff]
  simp [decRun, decStep_flag_filled hne]

/-! ## By DECODE_SPI (40 R146) -/

/-- A transaction of just the length its length field says is validated as a whole. -/
theorem decodeTransaction_of_length {c : CommonCfg} {t : List Byte} {len : Nat} (hfill : allFill t = false)
    (hlen : u16le (byteAt t 4) (byteAt t 5) = len) (ht : t.length = frameMin + len) (hmax : len ≤ c.maxPayload) :
    decodeTransaction c t = .verdict (validate c t) := by
  have minimal : ¬ t.length < frameMin := by omega
  have whole : ¬ t.length < frameMin + len := by omega
  simp only [decodeTransaction]
  rw [hfill, if_neg Bool.false_ne_true, if_neg minimal, hlen, if_neg (Nat.not_lt.2 hmax), if_neg whole,
    List.take_of_length_le ht.le]

theorem byteAt_set_of_ne {j i : Nat} (h : j ≠ i) (s : List Byte) (x : Byte) : byteAt (s.set j x) i = byteAt s i := by
  simp [byteAt, List.getElem?_set_ne h]

theorem lenField_content_set (h : Hdr) {p : List Byte} (hp : p.length ≤ 65535) {j : Nat} (h4 : j ≠ 4) (h5 : j ≠ 5)
    (x : Byte) :
    u16le (byteAt ((content h p).set j x) 4) (byteAt ((content h p).set j x) 5) = p.length := by
  rw [byteAt_set_of_ne h4, byteAt_set_of_ne h5]
  simpa using lenField_content h hp []

theorem xor_twoPow_ne (v : Byte) {k : Nat} (hk : k < 8) : v ^^^ BitVec.twoPow 8 k ≠ v := by
  intro h
  have := congrArg (·.getLsbD k) h
  simp [hk] at this

/-- Bytes that one change by XOR makes all zero were the change on zeros. -/
theorem eq_set_of_xor_eq_zeros {w : List Byte} {j : Nat} {m : Byte} (hj : j < w.length)
    (hz : ∀ x ∈ w.set j (byteAt w j ^^^ m), x = 0) : w = (List.replicate w.length 0).set j m := by
  have zeros : w.set j (byteAt w j ^^^ m) = List.replicate w.length 0 :=
    List.eq_replicate_iff.2 ⟨List.length_set, hz⟩
  have changed : byteAt w j = m := by
    simpa using hz _ (List.mem_set hj _)
  rw [← zeros, List.set_set, ← changed]
  simp [byteAt, hj]

/-- Eight bytes, all zero but for one bit, are no content: the trailer is not the CRC of the rest. -/
theorem one_bit_crc_ne : ∀ j k : Fin 8,
    (crc16 (((List.replicate 8 0).set j (BitVec.twoPow 8 k)).take 6)).toNat ≠
      u16le (byteAt ((List.replicate 8 0).set j (BitVec.twoPow 8 k)) 6)
        (byteAt ((List.replicate 8 0).set j (BitVec.twoPow 8 k)) 7) := by
  decide +kernel

/-- One flipped bit outside the length field does not make a content an idle transaction: the length field would say
that there is no payload, and no such content has a single bit set. -/
theorem allFill_content_flip {h : Hdr} {p : List Byte} (hp : p.length ≤ 65535) {j k : Nat} (hj : j < 8 + p.length)
    (hk : k < 8) (h4 : j ≠ 4) (h5 : j ≠ 5) :
    allFill ((content h p).set j (byteAt (content h p) j ^^^ BitVec.twoPow 8 k)) = false := by
  rw [← Bool.not_eq_true, allFill_iff]
  intro hz
  have inside (i : Nat) (hi : i < 8) :
      byteAt ((content h p).set j (byteAt (content h p) j ^^^ BitVec.twoPow 8 k)) i = 0 := by
    have hlt : i < ((content h p).set j (byteAt (content h p) j ^^^ BitVec.twoPow 8 k)).length := by
      rw [List.length_set, content_length]; omega
    rw [byteAt, List.getD_eq_getElem _ _ hlt]
    exact hz _ (List.getElem_mem hlt)
  have hlen := lenField_content_set h hp h4 h5 (byteAt (content h p) j ^^^ BitVec.twoPow 8 k)
  rw [inside 4 (by decide), inside 5 (by decide)] at hlen
  have empty : p.length = 0 := hlen.symm
  have length8 : (content h p).length = 8 := by rw [content_length, empty]
  have single := eq_set_of_xor_eq_zeros (by rwa [content_length]) hz
  have hcrc := crc_content h p
  rw [length8, single, length8] at hcrc
  exact one_bit_crc_ne ⟨j, by omega⟩ ⟨k, hk⟩ hcrc

/-- Settles O27: a flipped bit changes one byte, so the validation that either decoder comes to fails on the CRC. -/
theorem singleBitErrorsAreDetected : Obligations.SingleBitErrorsAreDetected := by
  intro s c h p j k hc hmax hl hj hk b
  have hp : p.length ≤ 65535 := hl.1.trans hmax
  have hlen : b.length = frameMin + p.length := by rw [List.length_set, content_length]; rfl
  have hb : validate c b = .corrupt .crcMismatch := validate_content_set hj (xor_twoPow_ne _ hk)
  constructor
  · intro hdec
    have hne : b ≠ [] := List.ne_nil_of_length_pos (by rw [hlen]; exact Nat.lt_add_right _ (by decide))
    obtain ⟨t, ht, -⟩ := runOps_decByte (stuff b ++ [flagByte]) [] hc
    rw [show s.block.dec = Dec.init from hdec,
      decRun_stuff_flag hne (hlen.trans_le (Nat.add_le_add_left hl.1 _)), hb] at ht
    exact ⟨t, by simpa [flagByte] using ht⟩
  · intro h4 h5
    have hdec := decodeTransaction_of_length (allFill_content_flip hp hj hk h4 h5)
      (lenField_content_set h hp h4 h5 _) hlen hl.1
    exact ⟨_, exec_decodeSpi hc b, congrArg Result.spiDec (hdec.trans (congrArg _ hb))⟩

end Sys2Proof.Machine
end

section
/-! The bytes a UART instance owes its wire (41_uart_adapter R181, R184, R189): every effect but RESET keeps the stream
of what was sent and what is owed, and an accepted frame is added at its end. -/

namespace Sys2Proof.Machine

open Sys2Proof.Safety

theorem acceptedBytes_of_ne_sent {i : Instr} {r : Result} (h : r ≠ .sent) : acceptedBytes i r = [] := by
  unfold acceptedBytes
  split
  · exact absurd rfl h
  · rfl

/-! ## The position lies within the queue -/

theorem txQueue_eq_nil_of_unconfigured {b : Block} {u : UartState} (h : UartInv b u) (hm : u.mode = .unconfigured) :
    b.txQueue = [] :=
  ((uartInv_unconfigured hm).1 h).1.txQueue

theorem headFrame_length_le_flatten (q : List (List Byte)) : (headFrame q).length ≤ q.flatten.length := by
  cases q with
  | nil => exact Nat.zero_le _
  | cons f q => simp

theorem txPos_le_flatten_length {c : UartCfg} {b : Block} {u : UartState} (h : UartRunning c b u) :
    u.txPos ≤ b.txQueue.flatten.length := by
  by_cases hq : b.txQueue = []
  · rw [h.posEmpty hq]
    exact Nat.zero_le _
  · exact (h.posHead hq).le.trans (headFrame_length_le_flatten _)

/-! ## The stream after each named update -/

theorem txStream_of_empty {b : Block} {u : UartState} (h : b.txQueue = []) : txStream b u = u.wireTx := by
  simp [txStream, h]

theorem txStream_enqueue {b : Block} {u : UartState} (h : u.txPos ≤ b.txQueue.flatten.length) (f : List Byte) :
    txStream (b.setTxQueue (enq b.txQueue f)) u = txStream b u ++ f := by
  simp [txStream, enq, List.drop_append_of_le_length h]

/-- The byte that leaves the queue is the one that arrives on the wire. -/
theorem sendByte_txStream {b : Block} {u : UartState} (h : u.txPos < (headFrame b.txQueue).length) :
    ∃ u', (sendByte b u).1.adapter = .uart u' ∧ txStream (sendByte b u).1 u' = txStream b u := by
  obtain ⟨u', ha', -, -, hwire, howed⟩ := sendByte_owed h
  exact ⟨u', ha', by simp [txStream_eq, hwire, howed]⟩

theorem UartEffect.txStream_eq_append {s : State} {u : UartState} {i : Instr} {b : Block} {r : Result}
    (ha : s.block.adapter = .uart u) (hs : MachineInv s) (hi : i ≠ .reset) (e : UartEffect s u i b r) :
    ∃ u', b.adapter = .uart u' ∧ txStream b u' = txStream s.block u ++ acceptedBytes i r := by
  have hu : UartInv s.block u := ((blockInv_uart ha).1 hs).2
  have run : ∀ {c}, u.mode = .configured c → UartRunning c s.block u := fun hm => (uartInv_configured hm).1 hu
  cases e with
  | trySend hm => exact ⟨u, ha, txStream_enqueue (txPos_le_flatten_length (run hm)) _⟩
  | txByte he =>
    obtain ⟨c, hm, hq⟩ := configured_of_txEnabled he
    obtain ⟨u', ha', hkept⟩ := sendByte_txStream ((run hm).posHead hq)
    exact ⟨u', ha', hkept.trans (List.append_nil _).symm⟩
  | setup hm =>
    refine ⟨_, rfl, ?_⟩
    rw [txStream_of_empty rfl, txStream_of_empty (txQueue_eq_nil_of_unconfigured hu hm)]
    exact (List.append_nil _).symm
  | reset => exact absurd rfl hi
  | same _ _ _ sent => exact ⟨u, ha, by rw [acceptedBytes_of_ne_sent sent, List.append_nil]⟩
  | decByte | decodeUart | rxLost => exact ⟨u, ha, (List.append_nil _).symm⟩
  | poll | rxByte | ctsSet => exact ⟨_, rfl, (List.append_nil _).symm⟩

/-- Settles O35: by the effects of an operation, where only an accepted frame, a sent byte and a successful SETUP touch
the queue, the position or the wire. -/
theorem uartStreamIsConserved : Obligations.UartStreamIsConserved :=
  fun _ _ _ _ hs h hi ha => (exec_uartEffect ha h).txStream_eq_append ha hs hi

end Sys2Proof.Machine
end

section
/-! Where UART_TX_BYTE is not enabled (41_uart_adapter R183): it leaves the block, and its script line holds until it is
enabled (log 6). -/

namespace Sys2Proof.Machine

open Sys2Proof.Safety

theorem txEnabled_of_unconfigured {u : UartState} (hm : u.mode = .unconfigured) (q : List (List Byte)) :
    txEnabled q u = false := by
  simp [txEnabled, hm]

theorem txEnabled_of_configured {u : UartState} {c : UartCfg} (hm : u.mode = .configured c) (q : List (List Byte)) :
    txEnabled q u = (!q.isEmpty && (c.flow == .none || u.ctsIn)) := by
  simp [txEnabled, hm]

theorem txEnabled_of_blocked {u : UartState} {c : UartCfg} (hm : u.mode = .configured c) (hf : c.flow = .ctsRts)
    (hc : u.ctsIn = false) (q : List (List Byte)) : txEnabled q u = false := by
  simp [txEnabled_of_configured hm, hf, hc]

theorem exec_uartTxByte_of_disabled {s : State} {u : UartState} (ha : s.block.adapter = .uart u)
    (he : txEnabled s.block.txQueue u = false) :
    exec .uartTxByte s = .next ((s.finish s.block .held).setHeld true) := by
  simp [exec, execUartTxByte, needUart_of ha, he]

/-- Where UART_TX_BYTE is disabled after an operation, a line holds if one held before or the operation began to. -/
theorem UartEffect.lineAfter_of_disabled {s : State} {u : UartState} {i : Instr} {b : Block} {r : Result}
    (ha : s.block.adapter = .uart u) (hs : LineInv s) (e : UartEffect s u i b r) (off : b.txEnabled = false) :
    lineAfter s b r i = true ↔ s.lineHeld = true ∨ r = .held := by
  cases e with
  | same hi hv _ sent held =>
    cases i with
    | uartTxByte => simp [lineAfter, held]
    | uartCtsSet v => exact absurd rfl (hv v)
    | _ => simp [lineAfter, held, sent]
  | txByte he =>
    have free : s.lineHeld ≠ true := fun hl => absurd ((txEnabled_of_uart ha).symm.trans (hs hl)) (by simp [he])
    simp [lineAfter, free]
  | trySend | ctsSet => simp [lineAfter, off]
  | decByte | decodeUart | setup | reset | poll | rxByte | rxLost => simp [lineAfter]

theorem SpiEffect.result_ne_held {s : State} {p : SpiState} {i : Instr} {b : Block} {r : Result}
    (e : SpiEffect s p i b r) : r ≠ .held := by
  cases e with
  | same _ _ _ _ _ held => exact held
  | decByte | decodeUart | setup | reset | trySend | poll | assertAgain | select | start | exchange | releaseAgain
    | finish | release | deselect => simp

theorem exec_lineHeld_iff {i : Instr} {s t : State} (hs : LineInv s) (h : exec i s = .next t) :
    t.lineHeld = true ↔ (s.lineHeld = true ∨ t.result = .held) ∧ t.txEnabled = false := by
  cases ha : s.block.adapter with
  | uart u =>
    obtain ⟨b, r, rfl, e⟩ := exec_uart_eq_next ha h
    constructor
    · intro hl
      have off : b.txEnabled = false := e.lineAfter_waits ha hs hl
      exact ⟨(e.lineAfter_of_disabled ha hs off).1 hl, off⟩
    · rintro ⟨hl, off⟩
      exact (e.lineAfter_of_disabled ha hs off).2 hl
  | spi p =>
    have off : t.txEnabled = false := txEnabled_eq_false_of_spi ((exec_sameParameters h).1.trans (variant_of_spi ha))
    obtain ⟨b, r, rfl, e⟩ := exec_spi_eq_next ha h
    simp [e.result_ne_held, off]

/-- Settles O31: each of the three conditions disables UART_TX_BYTE, and the line is read off an operation's effect. -/
theorem uartTxByteHoldsWhileDisabled : Obligations.UartTxByteHoldsWhileDisabled := by
  refine ⟨fun s u ha hoff => exec_uartTxByte_of_disabled ha ?_, fun _ _ _ => exec_lineHeld_iff⟩
  obtain hm | hq | ⟨c, hm, hf, hc⟩ := hoff
  · exact txEnabled_of_unconfigured hm _
  · rw [hq, txEnabled_nil_queue]
  · exact txEnabled_of_blocked hm hf hc _

end Sys2Proof.Machine
end

section
/-! Progress of the transmit side (41_uart_adapter R191): along an endless run without RESET a configured UART instance
stays configured and its wire only grows along the stream it owes; TXE, taken while a frame is queued, sends one more
byte. -/

namespace Sys2Proof.Machine

open Sys2Proof.Safety

/-! ## One operation -/

/-- A configured UART instance whose stream, of what it sent and owes, begins with `w`. -/
structure Committed (w : List Byte) (s : State) (u : UartState) (c : UartCfg) : Prop where
  inv     : MachineInv s
  adapter : s.block.adapter = .uart u
  mode    : u.mode = .configured c
  stream  : w <+: txStream s.block u

theorem statusCfg_uart_eq {u : UartState} {c : UartCfg} :
    statusCfg (.uart u) = .uart c ↔ u.mode = .configured c := by
  cases hm : u.mode <;> simp [statusCfg, hm]

theorem exec_statusCfg_of_configured {i : Instr} {s t : State} (h : exec i s = .next t) (hi : i ≠ .reset)
    (hc : statusCfg s.block.adapter ≠ .none) : statusCfg t.block.adapter = statusCfg s.block.adapter := by
  have hmove := exec_recordMove h
  generalize statusCfg s.block.adapter = c at hmove hc ⊢
  generalize statusCfg t.block.adapter = c' at hmove ⊢
  generalize t.result = r at hmove
  cases hmove with
  | keep => rfl
  | setup => exact absurd rfl hc
  | reset => exact absurd rfl hi

theorem Committed.step {w : List Byte} {s t : State} {u : UartState} {c : UartCfg} {i : Instr}
    (h : Committed w s u c) (hexec : exec i s = .next t) (hi : i ≠ .reset) :
    ∃ u', Committed w t u' c ∧ u.wireTx <+: u'.wireTx := by
  obtain ⟨u', ha', hstream⟩ := uartStreamIsConserved _ _ _ _ h.inv hexec hi h.adapter
  obtain ⟨v, new, hv, hwire, -⟩ := (exec_uartEffect h.adapter hexec).wireTx_grows h.adapter
  obtain rfl : u' = v := by simpa [ha'] using hv
  have record : statusCfg s.block.adapter = .uart c := by rw [h.adapter, statusCfg_uart_eq.2 h.mode]
  have kept := (exec_statusCfg_of_configured hexec hi (by simp [record])).trans record
  rw [ha'] at kept
  exact ⟨u', ⟨exec_machineInv h.inv hexec, ha', statusCfg_uart_eq.1 kept,
    hstream ▸ h.stream.trans (List.prefix_append _ _)⟩, hwire ▸ List.prefix_append _ _⟩

/-- What flow control does not hold back is enabled, or nothing is owed. -/
theorem Committed.sent_or_enabled {w : List Byte} {s : State} {u : UartState} {c : UartCfg} (h : Committed w s u c)
    (clear : c.flow = .none ∨ u.ctsIn = true) : w <+: u.wireTx ∨ s.txEnabled = true := by
  by_cases hq : s.block.txQueue = []
  · exact .inl (txStream_of_empty hq ▸ h.stream)
  · have on := (Unblocked.mk h.inv h.adapter h.mode clear).txEnabled_eq
    exact .inr ((txEnabled_of_uart h.adapter).trans (on.trans (by simp [hq])))

theorem exec_uartTxByte_wireTx_length {s t : State} {u u' : UartState} (ha : s.block.adapter = .uart u)
    (on : s.txEnabled = true) (h : exec .uartTxByte s = .next t) (ha' : t.block.adapter = .uart u') :
    u'.wireTx.length = u.wireTx.length + 1 := by
  rw [exec_uartTxByte_of_enabled ha ((txEnabled_of_uart ha).symm.trans on)] at h
  obtain ⟨k, hk⟩ := sendByte_adapter s.block u
  obtain rfl := Host.Outcome.next.inj h
  obtain rfl := Adapter.uart.inj (hk.symm.trans ha')
  simp

/-! ## The run -/

/-- A weakly fair endless run with no RESET from `n` on, on which flow control of the record `c` never holds TXE
back. -/
structure ClearRun (σ : Nat → State) (μ : Nat → Instr) (n : Nat) (c : UartCfg) : Prop where
  run     : EndlessRun σ μ
  fair    : TxeFair σ μ
  noReset : ∀ m, n ≤ m → μ m ≠ .reset
  clear   : ∀ m, n ≤ m → ∀ v, (σ m).block.adapter = .uart v → c.flow = .none ∨ v.ctsIn = true

section
variable {σ : Nat → State} {μ : Nat → Instr} {n : Nat} {c : UartCfg} {w : List Byte}

theorem ClearRun.committed (hr : ClearRun σ μ n c) {m : Nat} (hm : n ≤ m) {u : UartState}
    (h : Committed w (σ m) u c) {j : Nat} (hj : m ≤ j) :
    ∃ v, Committed w (σ j) v c ∧ u.wireTx <+: v.wireTx := by
  induction j, hj using Nat.le_induction with
  | base => exact ⟨u, h, List.prefix_rfl⟩
  | succ j hj ih =>
    obtain ⟨v, hv, hwire⟩ := ih
    obtain ⟨v', hv', hwire'⟩ := hv.step (hr.run j) (hr.noReset j (hm.trans hj))
    exact ⟨v', hv', hwire.trans hwire'⟩

/-- Either TXE stays enabled, so it is taken and one more byte is on the wire, or at some point nothing is owed. -/
theorem ClearRun.progress (hr : ClearRun σ μ n c) {m : Nat} (hm : n ≤ m) {u : UartState}
    (h : Committed w (σ m) u c) :
    ∃ j v, m ≤ j ∧ Committed w (σ j) v c ∧ (w <+: v.wireTx ∨ u.wireTx.length < v.wireTx.length) := by
  by_cases on : ∀ j, m ≤ j → (σ j).txEnabled = true
  · obtain ⟨j, hj, hμ⟩ := hr.fair m on
    obtain ⟨v, hv, hwire⟩ := hr.committed hm h hj
    have hexec : exec .uartTxByte (σ j) = .next (σ (j + 1)) := hμ ▸ hr.run j
    obtain ⟨v', hv', -⟩ := hv.step hexec (by simp)
    have hlen := exec_uartTxByte_wireTx_length hv.adapter (on j hj) hexec hv'.adapter
    have hle := hwire.length_le
    exact ⟨j + 1, v', by omega, hv', .inr (by omega)⟩
  · push Not at on
    obtain ⟨j, hj, off⟩ := on
    obtain ⟨v, hv, -⟩ := hr.committed hm h hj
    have sent := (hv.sent_or_enabled (hr.clear j (hm.trans hj) v hv.adapter)).resolve_right off
    exact ⟨j, v, hj, hv, .inl sent⟩

/-- By induction on a number of bytes: that many come onto the wire, or all of `w` does before. -/
theorem ClearRun.sends_length (hr : ClearRun σ μ n c) {u : UartState} (h : Committed w (σ n) u c) (k : Nat) :
    ∃ m v, n ≤ m ∧ Committed w (σ m) v c ∧ (w <+: v.wireTx ∨ k ≤ v.wireTx.length) := by
  induction k with
  | zero => exact ⟨n, u, le_rfl, h, .inr (Nat.zero_le _)⟩
  | succ k ih =>
    obtain ⟨m, v, hm, hv, sent | hk⟩ := ih
    · exact ⟨m, v, hm, hv, .inl sent⟩
    · obtain ⟨j, v', hj, hv', hsent⟩ := hr.progress hm hv
      exact ⟨j, v', hm.trans hj, hv', hsent.imp_right (Nat.succ_le_of_lt ∘ Nat.lt_of_le_of_lt hk)⟩

theorem ClearRun.sends (hr : ClearRun σ μ n c) {u : UartState} (h : Committed w (σ n) u c) :
    ∃ m v, n ≤ m ∧ (σ m).block.adapter = .uart v ∧ w <+: v.wireTx := by
  obtain ⟨m, v, hm, hv, sent | hlen⟩ := hr.sends_length h w.length
  · exact ⟨m, v, hm, hv.adapter, sent⟩
  · exact ⟨m, v, hm, hv.adapter, List.prefix_of_prefix_length_le hv.stream (List.prefix_append _ _) hlen⟩

end

/-- Settles O36: everything sent and owed at `n` stays the beginning of the stream, and comes onto the wire byte by
byte. -/
theorem fairRunsSendEveryAcceptedFrame : Obligations.FairRunsSendEveryAcceptedFrame := by
  intro σ μ n u c hrun hfair hinv ha hm hclear hreset
  have clear : ∀ m, n ≤ m → ∀ v, (σ m).block.adapter = .uart v → c.flow = .none ∨ v.ctsIn = true := by
    intro m hnm v hv
    refine hclear.imp_right fun hcts => ?_
    obtain ⟨v', hv', hc⟩ := hcts m hnm
    obtain rfl := Adapter.uart.inj (hv.symm.trans hv')
    exact hc
  exact (ClearRun.mk hrun hfair hreset clear).sends ⟨hinv, ha, hm, List.prefix_rfl⟩

end Sys2Proof.Machine
end

section
/-! The UART operations one at a time (41_uart_adapter R181 to R188): the whole next state of each, in each of its
cases. -/

namespace Sys2Proof.Machine

section
variable {s : State} {u : UartState} {c : UartCfg}

/-! ## UART_TRY_SEND (41 R181) -/

/-- UART_ENC_MAX with FRAME_MAX written out (30_encoding R96). -/
theorem uartEncMaxOf_eq (n : Nat) : uartEncMaxOf n = 2 * (8 + n) + 1 := rfl

theorem exec_uartTrySend_configured (ha : s.block.adapter = .uart u) (hm : u.mode = .configured c) (f : List Byte) :
    exec (.uartTrySend f) s = needFrameLen s f (uartEncMaxOf c.common.maxPayload)
      (if s.block.txQueue.length = c.common.txq then done s s.block .busy
       else .next (s.finish (s.block.setTxQueue (enq s.block.txQueue f)) .sent).releaseLine) := by
  simp [exec, execUartTrySend, needUart_of ha, hm]

theorem needFrameLen_of_bad {f : List Byte} {n : Nat} (h : f.length = 0 ∨ n < f.length) (k : Out) :
    needFrameLen s f n k = .fault (.badFrameLen s.stepIndex) :=
  if_pos h

/-! ## UART_RX_BYTE (41 R185) -/

theorem exec_uartRxByte_unconfigured (ha : s.block.adapter = .uart u) (hm : u.mode = .unconfigured) (x : Byte) :
    exec (.uartRxByte x) s = .next (s.finish s.block .noResult) := by
  simp [exec, execUartRxByte, needUart_of ha, hm, done]

theorem exec_uartRxByte_room (ha : s.block.adapter = .uart u) (hm : u.mode = .configured c)
    (room : u.rxFifo.length < c.urxf) (x : Byte) :
    exec (.uartRxByte x) s =
      .next (s.finish (s.block.setUart { u with rxFifo := u.rxFifo ++ [x] }) .noResult) := by
  simp [exec, execUartRxByte, needUart_of ha, hm, room, done, enq]

theorem exec_uartRxByte_full (ha : s.block.adapter = .uart u) (hm : u.mode = .configured c)
    (full : ¬ u.rxFifo.length < c.urxf) (x : Byte) :
    exec (.uartRxByte x) s =
      .next (s.finish { s.block with cntRxOverrun := s.block.cntRxOverrun + 1 } .noResult) := by
  simp [exec, execUartRxByte, needUart_of ha, hm, full, done, bump]

/-! ## `rts_out` (10 R37) and UART_TX_BYTE's condition (41 R183) -/

theorem rtsOut_of_ctsRts (hm : u.mode = .configured c) (hf : c.flow = .ctsRts) :
    rtsOut u = decide (u.rxFifo.length < c.urxf) := by
  simp [rtsOut, hm, hf]

theorem txEnabled_of_clear (hm : u.mode = .configured c) (clear : c.flow = .none ∨ u.ctsIn = true) (f : List Byte)
    (q : List (List Byte)) : txEnabled (f :: q) u = true := by
  obtain hf | hc := clear
  · simp [txEnabled_of_configured hm, hf]
  · simp [txEnabled_of_configured hm, hc]

end

/-- Settles O28: the guards in their order, then the queue's room. -/
theorem uartTrySendResult : Obligations.UartTrySendResult := by
  refine ⟨fun s u f ha hm => ?_, fun s u c f ha hm => ?_⟩
  · simp [exec, execUartTrySend, needUart_of ha, hm]
  · rw [exec_uartTrySend_configured ha hm, uartEncMaxOf_eq]
    refine ⟨fun bad => needFrameLen_of_bad bad _, fun h1 h2 full => ?_, fun h1 h2 room => ?_⟩
    · rw [needFrameLen_of h1 h2, if_pos full]
      rfl
    · rw [needFrameLen_of h1 h2, if_neg room]
      exact ⟨_, rfl⟩

/-- Settles O29: the guard, then the FIFO; an empty FIFO has room, so `rts_out` is asserted. -/
theorem uartPollResult : Obligations.UartPollResult := by
  refine ⟨fun s u ha hm => ?_, fun s u c ha hm => ⟨fun hr => ?_, fun hr => ?_, fun hf hurxf => ?_⟩⟩
  · simp [exec, execUartPoll, needUart_of ha, hm]
  · simp [exec, execUartPoll, needUart_of ha, hm, hr, done, State.finish]
  · simp [exec, execUartPoll, needUart_of ha, hm, hr, done, State.finish, Block.setUart]
  · rw [rtsOut_of_ctsRts (u := { u with rxFifo := [] }) hm hf]
    exact decide_eq_true hurxf

/-- Settles O30: the condition of R183 holds, and the byte sent is the last of the head frame or not. -/
theorem uartTxByteSendsTheNextByte : Obligations.UartTxByteSendsTheNextByte := by
  intro s u c f q b ha hm hq hb clear
  have on : txEnabled s.block.txQueue u = true := hq ▸ txEnabled_of_clear hm clear f q
  have byte : byteAt (headFrame s.block.txQueue) u.txPos = b := by simp [hq, byteAt, hb]
  rw [exec_uartTxByte_of_enabled ha on, sendByte_result, byte]
  constructor
  · intro last
    rw [sendByte_last (by rw [hq]; exact last), byte, hq]
    rfl
  · intro more
    rw [sendByte_more (by rw [hq]; exact more), byte]
    rfl

/-- Settles O32: one lemma for each of the three cases. -/
theorem uartRxByteStoresOrCounts : Obligations.UartRxByteStoresOrCounts :=
  fun _ _ x ha => ⟨fun hm => exec_uartRxByte_unconfigured ha hm x, fun _ hm room => exec_uartRxByte_room ha hm room x,
    fun _ hm full => exec_uartRxByte_full ha hm full x⟩

/-- Settles O33: past the variant's guard UART_CTS_SET looks at nothing. -/
theorem uartCtsSetMirrorsThePin : Obligations.UartCtsSetMirrorsThePin :=
  fun _ _ _ ha => ⟨_, needUart_of ha _⟩

/-- Settles O34: with CTS/RTS `rts_out` is the FIFO's room, on which UART_RX_BYTE decides. -/
theorem rtsPromisesRoomForAByte : Obligations.RtsPromisesRoomForAByte := by
  intro s u c x ha hm hf
  rw [rtsOut_of_ctsRts hm hf, decide_eq_true_iff, decide_eq_false_iff_not]
  by_cases room : u.rxFifo.length < c.urxf
  · exact ⟨_, _, exec_uartRxByte_room ha hm room x, rfl, fun _ => ⟨rfl, rfl⟩, absurd room⟩
  · exact ⟨_, _, exec_uartRxByte_full ha hm room x, ha, fun h => absurd h room, fun _ => ⟨rfl, rfl⟩⟩

end Sys2Proof.Machine
end

section
/-! The SPI operations one at a time (42_spi_adapter R221 to R231): the whole next state of each, in each of its
cases. -/

namespace Sys2Proof.Machine

/-! ## The availability level (42 R222) -/

/-- FRAME_MAX with its constant written out (00_scope R10). -/
theorem frameMaxOf_eq (n : Nat) : frameMaxOf n = 8 + n := rfl

theorem append_if_eq {b : Bool} {P : Prop} [Decidable P] (h : b = true ↔ P) (xs ys : List Nat) :
    (xs ++ if b then ys else []) = if P then xs ++ ys else xs := by
  by_cases hP : P <;> simp [h, hP]

/-- `upd_avail()` where the level is `l` and `P` says that it is true. -/
theorem updAvail_of_level {q : List (List Byte)} {p : SpiState} {l : Bool} {P : Prop} [Decidable P]
    (hl : availLevel q p = l) (hP : l = true ↔ P) (c : SpiCfg) :
    updAvail c q p =
      { p with
        txAvailOut := l
        trigOut := if P ∧ p.txAvailOut = false then p.trigOut ++ [c.tTxav] else p.trigOut } := by
  subst hl
  have rises : (availLevel q p && !p.txAvailOut) = true ↔ P ∧ p.txAvailOut = false := by simp [hP]
  rw [updAvail, availTriggers, append_if_eq rises]

theorem not_isEmpty_eq {α : Type} [DecidableEq α] (q : List α) : (!q.isEmpty) = decide (q ≠ []) := by
  cases q <;> simp

theorem availLevel_enq (q : List (List Byte)) (f : List Byte) (p : SpiState) :
    availLevel (enq q f) p = !p.csIn := by
  simp [availLevel, enq]

theorem availLevel_of_released {p : SpiState} (hs : p.csIn = false) (q : List (List Byte)) :
    availLevel q p = decide (q ≠ []) := by
  simp [availLevel, hs, not_isEmpty_eq]

theorem availLevel_of_selected {p : SpiState} (hs : p.csIn = true) (q : List (List Byte)) :
    availLevel q p = false := by
  simp [availLevel, hs]

/-! ## The start of a transaction (42 R224) -/

theorem startTransaction_eq (c : SpiCfg) (q : List (List Byte)) (p : SpiState) :
    startTransaction c q p =
      { p with
        csIn := true, xferActive := true, xferPos := 0, rxCur := [], doneSent := false
        txLoaded := decide (q ≠ []), txAvailOut := false, trigOut := p.trigOut ++ [c.tCsa] } := by
  simp [startTransaction, updAvail, availTriggers, availLevel_of_selected, not_isEmpty_eq, emitTrig]

/-! ## Each operation past its guards -/

section
variable {s : State} {p : SpiState} {c : SpiCfg}

theorem exec_spiTrySend_configured (ha : s.block.adapter = .spi p) (hm : p.mode = .configured c) (f : List Byte) :
    exec (.spiTrySend f) s = needFrameLen s f (frameMaxOf c.common.maxPayload)
      (if s.block.txQueue.length = c.common.txq then done s s.block .busy
       else done s ((s.block.setTxQueue (enq s.block.txQueue f)).setSpi (updAvail c (enq s.block.txQueue f) p))
        .sent) := by
  simp [exec, execSpiTrySend, needSpi_of ha, hm]

theorem exec_spiCsAssert_start (ha : s.block.adapter = .spi p) (hm : p.mode = .configured c) (hs : p.csIn = false) :
    exec .spiCsAssert s = .next (s.finish (s.block.setSpi (startTransaction c s.block.txQueue p)) .noResult) := by
  simp [exec, execSpiCsAssert, needSpi_of ha, hm, hs, done]

theorem exec_spiXfer_exchange (ha : s.block.adapter = .spi p) (hm : p.mode = .configured c)
    (hx : p.xferActive = true) (m : Byte) :
    exec (.spiXfer m) s =
      .next (s.finish (s.block.setSpi (exchangeByte c s.block.txQueue m p)) (.miso (misoByte s.block.txQueue p))) := by
  simp [exec, execSpiXfer, needSpi_of ha, hm, hx, done]

theorem exec_spiCsDeassert_finish (ha : s.block.adapter = .spi p) (hm : p.mode = .configured c) (hs : p.csIn = true)
    (hx : p.xferActive = true) :
    exec .spiCsDeassert s = .next (s.finish (endTransaction c s.block p) .noResult) := by
  simp [exec, execSpiCsDeassert, needSpi_of ha, hm, hs, hx, done]

theorem exec_spiCsDeassert_release (ha : s.block.adapter = .spi p) (hm : p.mode = .configured c) (hs : p.csIn = true)
    (hx : p.xferActive = false) :
    exec .spiCsDeassert s =
      .next (s.finish (s.block.setSpi (updAvail c s.block.txQueue { p with csIn := false })) .noResult) := by
  simp [exec, execSpiCsDeassert, needSpi_of ha, hm, hs, hx, done]

end

/-- Settles O38: the guards in their order, then the queue's room; a queue with the frame in it is not empty, so the
level is that of chip-select. -/
theorem spiTrySendResult : Obligations.SpiTrySendResult := by
  refine ⟨fun s p f ha hm => ?_, fun s p c f ha hm => ?_⟩
  · simp [exec, execSpiTrySend, needSpi_of ha, hm]
  · rw [exec_spiTrySend_configured ha hm, frameMaxOf_eq]
    refine ⟨fun bad => needFrameLen_of_bad bad _, fun h1 h2 full => ?_, fun h1 h2 room => ?_⟩
    · rw [needFrameLen_of h1 h2, if_pos full]
      rfl
    · rw [needFrameLen_of h1 h2, if_neg room, updAvail_of_level (availLevel_enq _ _ _) (Bool.not_eq_true' _).to_iff]
      rfl

/-- Settles O39: the guard, then the queue of received transactions. -/
theorem spiPollResult : Obligations.SpiPollResult := by
  refine ⟨fun s p ha hm => ?_, fun s p c ha hm => ⟨fun hr => ?_, fun d q hr => ?_⟩⟩
  · simp [exec, execSpiPoll, needSpi_of ha, hm]
  · simp [exec, execSpiPoll, needSpi_of ha, hm, hr, done, State.finish]
  · simp [exec, execSpiPoll, needSpi_of ha, hm, hr, done, State.finish, Block.setSpi]

/-- Settles O40: the level before decides whether there is an event, the mode whether it starts a transaction. -/
theorem spiCsAssertStartsATransaction : Obligations.SpiCsAssertStartsATransaction := by
  refine fun s p ha => ⟨fun hs => ?_, fun hs hm => ?_, fun c hs hm => ?_⟩
  · simp [exec, execSpiCsAssert, needSpi_of ha, hs, done, State.finish]
  · simp [exec, execSpiCsAssert, needSpi_of ha, hs, hm, done, State.finish, Block.setSpi]
  · rw [exec_spiCsAssert_start ha hm hs, startTransaction_eq]
    rfl

/-- Settles O41: `exchangeByte_eq` has the fields, and T_DONE is due in one case. -/
theorem spiXferExchangesAByte : Obligations.SpiXferExchangesAByte := by
  rintro s p c m f ha hm hx rfl
  have completes :
      (p.txLoaded && !p.doneSent && decide (p.xferPos + 1 = (headFrame s.block.txQueue).length)) = true ↔
        p.txLoaded = true ∧ p.doneSent = false ∧ p.xferPos + 1 = (headFrame s.block.txQueue).length := by
    simp [and_assoc]
  rw [exec_spiXfer_exchange ha hm hx, exchangeByte_eq, append_if_eq completes]
  rfl

/-- Settles O42: outside a transaction no mode leads to an exchange. -/
theorem spiXferUndrivenOutsideATransaction : Obligations.SpiXferUndrivenOutsideATransaction := by
  intro s p m ha hx
  refine ⟨Config.undrivenMiso s.stepIndex, ?_⟩
  simp [exec, execSpiXfer, needSpi_of ha, hx, done, State.finish]

theorem decide_all_eq_allFill (x : List Byte) : decide (∀ b ∈ x, b = 0) = allFill x := by
  rw [Bool.eq_iff_iff, decide_eq_true_iff, allFill_iff]

/-- Settles O43: `endTransaction_eq` has the fields; T_TXAV is due where a frame remains and the level was low. -/
theorem spiCsDeassertEndsATransaction : Obligations.SpiCsDeassertEndsATransaction := by
  rintro s p c f sentAll cut idle full q ha hm hs hx rfl rfl rfl rfl rfl rfl
  have rises : (!(queueAfter s.block p).isEmpty && !p.txAvailOut) = true ↔
      queueAfter s.block p ≠ [] ∧ p.txAvailOut = false := by simp
  have truncated : (!decide ((headFrame s.block.txQueue).length ≤ p.xferPos)) =
      decide (p.xferPos < (headFrame s.block.txQueue).length) := by simp [← decide_not]
  rw [exec_spiCsDeassert_finish ha hm hs hx, endTransaction_eq, append_if_eq rises, List.append_assoc, truncated,
    not_isEmpty_eq, decide_all_eq_allFill]
  rfl

/-- Settles O44: without a transaction a release writes the level of chip-select, and while CONFIGURED the
availability. -/
theorem spiCsDeassertOutsideATransaction : Obligations.SpiCsDeassertOutsideATransaction := by
  refine fun s p ha => ⟨fun hs => ?_, fun hs hx hm => ?_, fun c hs hx hm => ?_⟩
  · simp [exec, execSpiCsDeassert, needSpi_of ha, hs, done, State.finish]
  · simp [exec, execSpiCsDeassert, needSpi_of ha, hs, hx, hm, done, State.finish, Block.setSpi]
  · rw [exec_spiCsDeassert_release ha hm hs hx, updAvail_of_level (availLevel_of_released rfl _) decide_eq_true_iff]
    rfl

end Sys2Proof.Machine
end

section
/-! What every operation of an SPI instance keeps of a running block: the frames of the transmit queue
(42_spi_adapter R232), the frame a transaction drives (R226), and the triggers with their events (R234). -/

namespace Sys2Proof.Machine

open Sys2Proof.Safety

/-! ## The invariant, read off a state -/

section
variable {s : State} {p : SpiState} {c : SpiCfg}

theorem spiInv_of_machineInv (hinv : MachineInv s) (ha : s.block.adapter = .spi p) : SpiInv s.block p :=
  ((blockInv_spi ha).1 hinv).2

theorem txQueue_of_unconfigured (hinv : MachineInv s) (ha : s.block.adapter = .spi p) (hm : p.mode = .unconfigured) :
    s.block.txQueue = [] :=
  ((spiInv_unconfigured hm).1 (spiInv_of_machineInv hinv ha)).1.txQueue

theorem spiRunning_of_machineInv (hinv : MachineInv s) (ha : s.block.adapter = .spi p) (hm : p.mode = .configured c) :
    SpiRunning c s.block p :=
  (spiInv_configured hm).1 (spiInv_of_machineInv hinv ha)

/-- A transaction stands only in a CONFIGURED block. -/
theorem spiRunning_of_active (hinv : MachineInv s) (ha : s.block.adapter = .spi p) (hx : p.xferActive = true) :
    ∃ c, p.mode = .configured c ∧ SpiRunning c s.block p := by
  cases hm : p.mode with
  | unconfigured =>
    have cleared := ((spiInv_unconfigured hm).1 (spiInv_of_machineInv hinv ha)).2
    simp [cleared.xferActive] at hx
  | configured c => exact ⟨c, rfl, spiRunning_of_machineInv hinv ha hm⟩

/-- A deselected block has no transaction. -/
theorem inactive_of_released {b : Block} (h : SpiRunning c b p) (hs : p.csIn = false) : p.xferActive = false := by
  rw [← Bool.not_eq_true]
  exact fun hx => by simp [h.selected hx] at hs

end

/-! ## The transmit queue (42 R232) -/

/-- How operation `i` with result `r` may move the transmit queue `q` of an instance in the state `p` to `q'`. -/
inductive SpiQueueMove (p : SpiState) : Instr → Result → List (List Byte) → List (List Byte) → Prop
  | keep {i : Instr} {r : Result} {q : List (List Byte)} : SpiQueueMove p i r q q
  | accept {f : List Byte} {q : List (List Byte)} : SpiQueueMove p (.spiTrySend f) .sent q (q ++ [f])
  | retire {f : List Byte} {r : Result} {q : List (List Byte)} (active : p.xferActive = true)
      (loaded : p.txLoaded = true) (clocked : f.length ≤ p.xferPos) : SpiQueueMove p .spiCsDeassert r (f :: q) q

theorem spiQueueMove_queueAfter {c : SpiCfg} {b : Block} {p : SpiState} (h : SpiRunning c b p)
    (hx : p.xferActive = true) (r : Result) : SpiQueueMove p .spiCsDeassert r b.txQueue (queueAfter b p) := by
  unfold queueAfter
  split
  · rename_i hall
    obtain ⟨loaded, clocked⟩ : p.txLoaded = true ∧ (headFrame b.txQueue).length ≤ p.xferPos := by simpa using hall
    cases hq : b.txQueue with
    | nil => exact absurd hq (h.loaded loaded)
    | cons f q => exact .retire hx loaded (by simpa [hq] using clocked)
  · exact .keep

theorem SpiEffect.queueMove {s : State} {p : SpiState} {i : Instr} {b : Block} {r : Result} (hinv : MachineInv s)
    (ha : s.block.adapter = .spi p) (e : SpiEffect s p i b r) (hi : i ≠ .reset) :
    SpiQueueMove p i r s.block.txQueue b.txQueue := by
  cases e with
  | reset => exact absurd rfl hi
  | setup hm =>
    rw [txQueue_of_unconfigured hinv ha hm]
    exact .keep
  | trySend => exact .accept
  | finish _ hx hm =>
    rw [endTransaction_eq]
    exact spiQueueMove_queueAfter (spiRunning_of_machineInv hinv ha hm) hx _
  | same | decByte | decodeUart | poll | assertAgain | select | start | exchange | releaseAgain | release
    | deselect => exact .keep

/-- Settles O45: the queue moves in the three ways of `SpiQueueMove`. -/
theorem spiFramesAreNotLost : Obligations.SpiFramesAreNotLost := by
  intro i s t p hinv h hi ha
  have move := (exec_spiEffect ha h).queueMove hinv ha hi
  generalize s.block.txQueue = q at move ⊢
  generalize t.block.txQueue = q' at move ⊢
  generalize t.result = r at move ⊢
  cases move with
  | keep => exact .inl rfl
  | accept => exact .inr (.inl ⟨_, rfl, rfl, rfl⟩)
  | retire active loaded clocked => exact .inr (.inr ⟨rfl, active, loaded, _, rfl, clocked⟩)

/-! ## The frame a transaction drives (42 R226, 70 R327) -/

/-- In the block `b` a transaction is in progress, loaded as `p` is, and a frame it drives is still that of `q`. -/
def StillDriven (p : SpiState) (q : List (List Byte)) (b : Block) : Prop :=
  ∃ p', b.adapter = .spi p' ∧ p'.xferActive = true ∧ p'.txLoaded = p.txLoaded ∧
    (p.txLoaded = true → b.txQueue.head? = q.head?)

theorem head?_enq {α : Type} {q : List α} (h : q ≠ []) (x : α) : (enq q x).head? = q.head? := by
  cases q with
  | nil => exact absurd rfl h
  | cons y q => rfl

/-- An operation that ends or starts a transaction needs another mode or another level of chip-select. -/
theorem SpiEffect.stillDriven {s : State} {p : SpiState} {i : Instr} {b : Block} {r : Result} {c : SpiCfg}
    (ha : s.block.adapter = .spi p) (hm : p.mode = .configured c) (h : SpiRunning c s.block p)
    (hx : p.xferActive = true) (e : SpiEffect s p i b r) (hi : i ≠ .reset) (hd : i ≠ .spiCsDeassert) :
    StillDriven p s.block.txQueue b := by
  have selected := h.selected hx
  cases e with
  | reset => exact absurd rfl hi
  | setup hm' => simp [hm] at hm'
  | select hs | start hs => simp [selected] at hs
  | releaseAgain | finish | release | deselect => exact absurd rfl hd
  | same | decByte | decodeUart | assertAgain => exact ⟨p, ha, hx, rfl, fun _ => rfl⟩
  | poll => exact ⟨_, rfl, hx, rfl, fun _ => rfl⟩
  | trySend => exact ⟨_, rfl, hx, rfl, fun loaded => head?_enq (h.loaded loaded) _⟩
  | exchange =>
    rw [exchangeByte_eq]
    exact ⟨_, rfl, hx, rfl, fun _ => rfl⟩

/-- Settles O46: an active transaction stands in a running, selected block. -/
theorem loadedFrameIsFixed : Obligations.LoadedFrameIsFixed := by
  intro i s t p hinv h hi hd ha hx
  obtain ⟨c, hm, running⟩ := spiRunning_of_active hinv ha hx
  exact (exec_spiEffect ha h).stillDriven ha hm running hx hi hd

/-! ## The triggers (42 R222, R228, R234) -/

/-- The ids of the events between the states `p` and `p'`, in the order they are emitted. -/
def eventTriggers (c : SpiCfg) (p p' : SpiState) : List Nat :=
  (if p.xferActive = false ∧ p'.xferActive = true then [c.tCsa] else []) ++
  (if p.xferActive = true ∧ p'.xferActive = false then [c.tCsd] else []) ++
  (if p.doneSent = false ∧ p'.doneSent = true then [c.tDone] else []) ++
  (if p.txAvailOut = false ∧ p'.txAvailOut = true then [c.tTxav] else [])

/-- The trace of `p'` is that of `p` and the triggers of the events in between. -/
def TracesEvents (c : SpiCfg) (p p' : SpiState) : Prop := p'.trigOut = p.trigOut ++ eventTriggers c p p'

theorem count_if_singleton {P : Prop} [Decidable P] (x y : Nat) :
    (if P then [x] else []).count y = if P ∧ x = y then 1 else 0 := by
  by_cases h : P <;> simp [h, List.count_singleton]

/-- The four ids are distinct (10 R44), so each counts its own event. -/
theorem count_eventTriggers {n : Nat} {c : SpiCfg} (legal : LegalSpi n c) (p p' : SpiState) :
    (eventTriggers c p p').count c.tTxav = (if p.txAvailOut = false ∧ p'.txAvailOut = true then 1 else 0) ∧
    (eventTriggers c p p').count c.tCsa = (if p.xferActive = false ∧ p'.xferActive = true then 1 else 0) ∧
    (eventTriggers c p p').count c.tCsd = (if p.xferActive = true ∧ p'.xferActive = false then 1 else 0) ∧
    (eventTriggers c p p').count c.tDone = (if p.doneSent = false ∧ p'.doneSent = true then 1 else 0) := by
  have distinct := legal.nodup
  simp only [trigIds, List.nodup_cons, List.mem_cons, not_or] at distinct
  obtain ⟨⟨txavCsa, txavCsd, txavDone, -⟩, ⟨csaCsd, csaDone, -⟩, ⟨csdDone, -⟩, -⟩ := distinct
  simp only [eventTriggers, List.count_append, count_if_singleton]
  simp [txavCsa, txavCsd, txavDone, csaCsd, csaDone, csdDone, Ne.symm txavCsa, Ne.symm txavCsd, Ne.symm txavDone,
    Ne.symm csaCsd, Ne.symm csaDone, Ne.symm csdDone]

theorem TracesEvents.refl (c : SpiCfg) (p : SpiState) : TracesEvents c p p := by simp [TracesEvents, eventTriggers]

/-- `upd_avail()` alone: its trigger is that of a rising level. -/
theorem tracesEvents_updAvail {c : SpiCfg} {q : List (List Byte)} {p p1 : SpiState}
    (active : p1.xferActive = p.xferActive) (doneSent : p1.doneSent = p.doneSent)
    (avail : p1.txAvailOut = p.txAvailOut) (trace : p1.trigOut = p.trigOut) :
    TracesEvents c p (updAvail c q p1) := by
  cases before : p.txAvailOut <;> cases after : availLevel q p1 <;>
    simp [TracesEvents, eventTriggers, availTriggers, active, doneSent, avail, trace, before, after]

theorem tracesEvents_start {c : SpiCfg} {b : Block} {p : SpiState} (h : SpiRunning c b p)
    (hs : p.csIn = false) : TracesEvents c p (startTransaction c b.txQueue p) := by
  rw [startTransaction_eq]
  simp [TracesEvents, eventTriggers, inactive_of_released h hs]

theorem tracesEvents_exchange {c : SpiCfg} {q : List (List Byte)} {m : Byte} {p : SpiState} :
    TracesEvents c p (exchangeByte c q m p) := by
  rw [exchangeByte_eq]
  cases hd : p.doneSent <;> simp [TracesEvents, eventTriggers, hd]

theorem tracesEvents_finish {c : SpiCfg} {b : Block} {p : SpiState} (hx : p.xferActive = true) :
    ∃ p', (endTransaction c b p).adapter = .spi p' ∧ TracesEvents c p p' := by
  rw [endTransaction_eq]
  exact ⟨_, rfl, by simp [TracesEvents, eventTriggers, hx, and_comm]⟩

theorem SpiEffect.tracesEvents {s : State} {p : SpiState} {i : Instr} {b : Block} {r : Result} {c : SpiCfg}
    (ha : s.block.adapter = .spi p) (hm : p.mode = .configured c) (h : SpiRunning c s.block p)
    (e : SpiEffect s p i b r) (hi : i ≠ .reset) : ∃ p', b.adapter = .spi p' ∧ TracesEvents c p p' := by
  have own : ∀ {c'}, p.mode = .configured c' → c' = c := fun hm' => by simpa [hm] using hm'.symm
  cases e with
  | reset => exact absurd rfl hi
  | setup hm' | select _ hm' | deselect _ hm' => simp [hm] at hm'
  | same | decByte | decodeUart | assertAgain | releaseAgain => exact ⟨p, ha, .refl c p⟩
  | poll => exact ⟨_, rfl, .refl c p⟩
  | trySend hm' =>
    obtain rfl := own hm'
    exact ⟨_, rfl, tracesEvents_updAvail rfl rfl rfl rfl⟩
  | start hs hm' =>
    obtain rfl := own hm'
    exact ⟨_, rfl, tracesEvents_start h hs⟩
  | exchange _ hm' =>
    obtain rfl := own hm'
    exact ⟨_, rfl, tracesEvents_exchange⟩
  | finish _ hx hm' =>
    obtain rfl := own hm'
    exact tracesEvents_finish hx
  | release _ _ hm' =>
    obtain rfl := own hm'
    exact ⟨_, rfl, tracesEvents_updAvail rfl rfl rfl rfl⟩

/-- Settles O47: an operation appends the triggers of its events, and the ids are distinct. -/
theorem triggersMarkTheirEvents : Obligations.TriggersMarkTheirEvents := by
  intro i s t p c hinv h hi ha hm
  have running := spiRunning_of_machineInv hinv ha hm
  obtain ⟨p', ha', trace⟩ := (exec_spiEffect ha h).tracesEvents ha hm running hi
  exact ⟨p', _, ha', trace, count_eventTriggers running.legal p p'⟩

end Sys2Proof.Machine
end

section
/-! SPI_TRANSACTION (30_encoding R106) on a deselected block with a frame waiting: the selection loads the frame, each
byte exchanged drives the next byte of it or FILL, and the release retires or keeps it (42_spi_adapter R224 to R229). -/

namespace Sys2Proof.Machine

/-- The bytes a loaded frame drives: the frame, then FILL. -/
theorem map_byteAt_range (f : List Byte) (n : Nat) :
    (List.range n).map (byteAt f) = f.take n ++ List.replicate (n - f.length) 0 := by
  apply List.ext_getElem
  · rw [List.length_map, List.length_range, List.length_append, List.length_take, List.length_replicate]
    omega
  · intro k hk _
    rw [List.length_map, List.length_range] at hk
    by_cases hf : k < f.length
    · simp [byteAt, hk, hf]
    · simp [byteAt, List.getElem_append, hf]

/-- `n` bytes into a transaction that drives the frame `f`, with `q` queued behind it; `sent` and `cut` are the counters
that its end may move. -/
structure Driving (c : SpiCfg) (f : List Byte) (q : List (List Byte)) (sent cut : Counter) (n : Nat) (s : State)
    (p : SpiState) : Prop where
  adapter  : s.block.adapter = .spi p
  queue    : s.block.txQueue = f :: q
  mode     : p.mode = .configured c
  selected : p.csIn = true
  active   : p.xferActive = true
  loaded   : p.txLoaded = true
  pos      : p.xferPos = n
  sent     : s.block.cntTxFrames = sent
  cut      : p.cntTxTruncated = cut

section
variable {s : State} {p : SpiState} {c : SpiCfg} {f : List Byte} {q : List (List Byte)} {sent cut : Counter} {n : Nat}

theorem driving_of_csAssert (ha : s.block.adapter = .spi p) (hm : p.mode = .configured c) (hs : p.csIn = false)
    (hq : s.block.txQueue = f :: q) :
    ∃ t p', exec .spiCsAssert s = .next t ∧ Driving c f q s.block.cntTxFrames p.cntTxTruncated 0 t p' :=
  ⟨_, _, exec_spiCsAssert_start ha hm hs,
    { adapter := rfl, queue := hq, mode := hm, selected := rfl, active := rfl, loaded := by simp [startTransaction, hq]
      pos := rfl, sent := rfl, cut := rfl }⟩

theorem Driving.misoByte_eq (h : Driving c f q sent cut n s p) : misoByte s.block.txQueue p = byteAt f n := by
  by_cases hn : n < f.length
  · simp [misoByte, h.queue, h.loaded, h.pos, hn]
  · simp [misoByte, h.queue, h.loaded, h.pos, hn, byteAt, fillByte]

theorem Driving.xfer (h : Driving c f q sent cut n s p) (m : Byte) :
    ∃ t p', exec (.spiXfer m) s = .next t ∧ t.result = .miso (byteAt f n) ∧ Driving c f q sent cut (n + 1) t p' := by
  have hexec := exec_spiXfer_exchange h.adapter h.mode h.active m
  rw [h.misoByte_eq, exchangeByte_eq] at hexec
  exact ⟨_, _, hexec, rfl, { h with adapter := rfl, pos := congrArg (· + 1) h.pos }⟩

/-- By induction on the MOSI bytes: the MISO bytes are those of `f` from position `n` on. -/
theorem Driving.xfers (h : Driving c f q sent cut n s p) (ms : List Byte) (rs : List Result) :
    ∃ t p', runOps (ms.map .spiXfer) (s, rs) = .next (t, rs ++ ((List.range' n ms.length).map (byteAt f)).map .miso) ∧
      Driving c f q sent cut (n + ms.length) t p' := by
  induction ms generalizing n s p rs with
  | nil => exact ⟨s, p, by simp [runOps], h⟩
  | cons m ms ih =>
    obtain ⟨s', p', hexec, hmiso, h'⟩ := h.xfer m
    obtain ⟨t, p'', hrun, ht⟩ := ih h' (rs ++ [.miso (byteAt f n)])
    refine ⟨t, p'', ?_, ?_⟩
    · simpa [runOps, runOp, hexec, hmiso, bindRun, List.range'_succ] using hrun
    · rwa [List.length_cons, Nat.add_comm ms.length, ← Nat.add_assoc]

/-- R229 on the loaded frame: retired and counted once all of it was clocked, else kept and counted as truncated. -/
theorem Driving.csDeassert (h : Driving c f q sent cut n s p) :
    ∃ t p', exec .spiCsDeassert s = .next t ∧ t.block.adapter = .spi p' ∧ p'.csIn = false ∧
      (f.length ≤ n → t.block.txQueue = q ∧ t.block.cntTxFrames = sent + 1 ∧ p'.cntTxTruncated = cut) ∧
      (n < f.length → t.block.txQueue = f :: q ∧ t.block.cntTxFrames = sent ∧ p'.cntTxTruncated = cut + 1) := by
  have hexec := exec_spiCsDeassert_finish h.adapter h.mode h.selected h.active
  rw [endTransaction_eq, queueAfter, h.queue, headFrame_cons, h.loaded, h.pos, h.sent, h.cut] at hexec
  refine ⟨_, _, hexec, rfl, rfl, fun whole => ?_, fun part => ?_⟩
  · simp [whole, bump]
  · simp [Nat.not_le.2 part, bump]

end

/-- Settles O48: the selection, the bytes and the release in turn, with the frame loaded throughout. -/
theorem transactionDrivesTheLoadedFrame : Obligations.TransactionDrivesTheLoadedFrame := by
  intro s p c f q ms _ ha hm hs hq
  obtain ⟨s1, p1, hassert, h1⟩ := driving_of_csAssert ha hm hs hq
  obtain ⟨s2, p2, hxfers, h2⟩ := h1.xfers ms []
  rw [Nat.zero_add] at h2
  obtain ⟨t, p', hrelease, hend⟩ := h2.csDeassert
  refine ⟨t, p', ?_, hend⟩
  rw [← map_byteAt_range, List.range_eq_range']
  simp [runPseudo, transaction, runOp, bindRun, hassert, hxfers, hrelease]

end Sys2Proof.Machine
end

section
/-! The control operations one at a time (43_setup_and_status R260 to R264): SETUP's ordered check of a record and the
whole next state of SETUP, RESET and READ_STATUS. -/

namespace Sys2Proof.Machine

open Sys2Proof.Spec

/-! ## The check of a record, row by row (43 R261) -/

theorem firstOf_append {α : Type} (l l' : List (Bool × α)) : firstOf (l ++ l') = (firstOf l).or (firstOf l') := by
  simp [firstOf, List.find?_append, Option.map_or]

theorem checkCommon_eq_firstOf (c : CommonCfg) : checkCommon c = firstOf (commonRows c) := by
  simp only [checkCommon, commonRows, firstOf_cons, firstOf_nil, GT.gt]

theorem urxfOf_eq_urxf (a : UartCfgArg) : urxfOf a = urxf a := by
  unfold urxfOf urxf
  cases a.urxf <;> rfl

/-- A record with a legal FLOW: the first row that fails, or the record with its URXF. -/
theorem checkUart_of_mode {a : UartCfgArg} {m : FlowMode} (hf : a.flow = .mode m) :
    checkUart a =
      (firstOf (uartRows a)).elim (.ok { common := a.common, baud := a.baud, flow := m, urxf := urxf a }) .error := by
  have flowPasses : ¬ (FlowArg.mode m ≠ .mode .none ∧ FlowArg.mode m ≠ .mode .ctsRts) := by cases m <;> simp
  rw [checkUart, checkCommon_eq_firstOf, urxfOf_eq_urxf, uartRows, firstOf_append]
  cases firstOf (commonRows a.common) with
  | some r => rfl
  | none =>
    simp only [Option.none_or, firstOf_cons_elim, hf, if_neg flowPasses, firstOf_nil, Option.elim_none]

/-- A record whose FLOW is no mode fails at the FLOW row, if at none before it. -/
theorem checkUart_of_other {a : UartCfgArg} {code : Byte} (hf : a.flow = .other code) :
    ∃ r, firstOf (uartRows a) = some r ∧ checkUart a = .error r := by
  have flowFails : FlowArg.other code ≠ .mode .none ∧ FlowArg.other code ≠ .mode .ctsRts := by simp
  rw [checkUart, checkCommon_eq_firstOf, uartRows, firstOf_append]
  cases firstOf (commonRows a.common) with
  | some r => exact ⟨r, rfl, rfl⟩
  | none =>
    simp only [Option.none_or, firstOf_cons, hf, if_pos flowFails]
    by_cases baud : a.baud < 1 <;> simp [baud]

theorem checkUart_eq_error {a : UartCfgArg} {r : CfgReason} (h : firstOf (uartRows a) = some r) :
    checkUart a = .error r := by
  cases hf : a.flow with
  | mode m => rw [checkUart_of_mode hf, h, Option.elim_some]
  | other code =>
    obtain ⟨r', hr', hcheck⟩ := checkUart_of_other hf
    rwa [Option.some.inj (h.symm.trans hr')]

theorem checkSpi_eq_elim (n : Nat) (c : SpiCfg) : checkSpi n c = (firstOf (spiRows n c)).elim (.ok c) .error := by
  have range : (trigIds c).any (fun t => n ≤ t) = true ↔ c.tTxav ≥ n ∨ c.tCsa ≥ n ∨ c.tCsd ≥ n ∨ c.tDone ≥ n := by
    simp [trigIds]
  have dup : (trigIds c).Nodup ↔ ¬ (c.tTxav = c.tCsa ∨ c.tTxav = c.tCsd ∨ c.tTxav = c.tDone ∨ c.tCsa = c.tCsd ∨
      c.tCsa = c.tDone ∨ c.tCsd = c.tDone) := by
    simp [trigIds, not_or, and_assoc]
  rw [checkSpi, checkCommon_eq_firstOf, spiRows, firstOf_append]
  cases firstOf (commonRows c.common) with
  | some r => rfl
  | none =>
    simp only [Option.none_or, firstOf_cons_elim, firstOf_nil, Option.elim_none, range, dup, ite_not]

/-! ## The mode read off the adapter (10 R23) -/

theorem modeName_configured_uart {b : Block} {u : UartState} (ha : b.adapter = .uart u) :
    b.modeName = .configured ↔ ∃ c, u.mode = .configured c := by
  rw [modeName_eq_configured, ha]
  cases hm : u.mode <;> simp [statusCfg, hm]

theorem modeName_configured_spi {b : Block} {p : SpiState} (ha : b.adapter = .spi p) :
    b.modeName = .configured ↔ ∃ c, p.mode = .configured c := by
  rw [modeName_eq_configured, ha]
  cases hm : p.mode <;> simp [statusCfg, hm]

/-! ## SETUP (43 R260, R262) -/

section
variable {s : State}

theorem exec_setup_locked (hm : s.block.modeName = .configured) (c : CfgArg) :
    exec (.setup c) s = .next (s.finish s.block .cfgLocked) := by
  cases ha : s.block.adapter with
  | uart u =>
    obtain ⟨d, hd⟩ := (modeName_configured_uart ha).1 hm
    simp only [exec, execSetup, ha, setupUart, hd, done]
  | spi p =>
    obtain ⟨d, hd⟩ := (modeName_configured_spi ha).1 hm
    simp only [exec, execSetup, ha, setupSpi, hd, done]

theorem exec_setup_uart_invalid {u : UartState} {a : UartCfgArg} {r : CfgReason} (ha : s.block.adapter = .uart u)
    (hm : u.mode = .unconfigured) (hc : checkUart a = .error r) :
    exec (.setup (.uart a)) s = .next (s.finish s.block (.cfgInvalid r)) := by
  simp only [exec, execSetup, ha, setupUart, hm, hc, done]

theorem exec_setup_uart_ok {u : UartState} {a : UartCfgArg} {c : UartCfg} (ha : s.block.adapter = .uart u)
    (hm : u.mode = .unconfigured) (hc : checkUart a = .ok c) :
    exec (.setup (.uart a)) s =
      .next (s.finish (s.block.cleared (.uart (u.cleared (.configured c)))) .cfgOk) := by
  simp only [exec, execSetup, ha, setupUart, hm, hc, done]

theorem exec_setup_spi {p : SpiState} (ha : s.block.adapter = .spi p) (hm : p.mode = .unconfigured) (c : SpiCfg) :
    exec (.setup (.spi c)) s =
      .next ((firstOf (spiRows s.block.trigNs c)).elim
        (s.finish (s.block.cleared (.spi (p.cleared (.configured c)))) .cfgOk)
        fun r => s.finish s.block (.cfgInvalid r)) := by
  simp only [exec, execSetup, ha, setupSpi, hm, checkSpi_eq_elim]
  cases firstOf (spiRows s.block.trigNs c) <;> rfl

end

/-- Settles O8: SETUP's guard on the mode, then its check as the ordered rows of each variant. -/
theorem setupFollowsItsRules : Obligations.SetupFollowsItsRules := by
  refine ⟨fun s c hm => exec_setup_locked hm c, fun s u a ha hm => ⟨fun r hr => ?_, fun m hf hpass => ?_⟩,
    fun s p c ha hm => ⟨fun r hr => ?_, fun hpass => ?_⟩⟩
  · exact exec_setup_uart_invalid ha hm (checkUart_eq_error hr)
  · exact exec_setup_uart_ok ha hm (by rw [checkUart_of_mode hf, hpass, Option.elim_none])
  · rw [exec_setup_spi ha hm, hr]
    rfl
  · rw [exec_setup_spi ha hm, hpass]
    rfl

/-! ## RESET (43 R263) -/

theorem exec_reset (s : State) :
    exec .reset s = .next (s.finish (s.block.cleared s.block.adapter.cleared) .noResult) := rfl

/-- Settles O10: the cleared block of either variant, in mode UNCONFIGURED. -/
theorem resetReturnsToUnconfigured : Obligations.ResetReturnsToUnconfigured :=
  ⟨fun s _ ha => by rw [exec_reset, ha]; rfl, fun s _ ha => by rw [exec_reset, ha]; rfl⟩

/-! ## READ_STATUS (43 R264) -/

theorem statusCfg_spi_eq {p : SpiState} {c : SpiCfg} : statusCfg (.spi p) = .spi c ↔ p.mode = .configured c := by
  cases hm : p.mode <;> simp [statusCfg, hm]

theorem exec_readStatus (s : State) : exec .readStatus s = .next (s.finish s.block (.status (statusOf s.block))) := rfl

/-- R37's last two cases as one condition. -/
theorem rtsOut_of_configured {u : UartState} {c : UartCfg} (hm : u.mode = .configured c) :
    rtsOut u = decide (c.flow = .none ∨ u.rxFifo.length < c.urxf) := by
  cases hf : c.flow with
  | none => simp [rtsOut, hm, hf]
  | ctsRts => simp [rtsOut_of_ctsRts hm hf]

theorem rtsOut_of_unconfigured {u : UartState} (hm : u.mode = .unconfigured) : rtsOut u = false := by
  simp [rtsOut, hm]

theorem statusOf_uart {b : Block} {u : UartState} (ha : b.adapter = .uart u) :
    statusOf b =
      { mode := b.modeName, variant := .uart, cfg := statusCfg (.uart u), txQueueLen := b.txQueue.length
        rxReady := decide (0 < u.rxFifo.length), decBufLen := b.dec.buf.length, decEsc := b.dec.esc
        decBad := b.dec.bad, cntTxFrames := b.cntTxFrames, cntRxOverrun := b.cntRxOverrun
        adapter := adapterStatus (.uart u) } := by
  simp only [statusOf, variant_of_uart ha, Block.rxReady, ha]

theorem statusOf_spi {b : Block} {p : SpiState} (ha : b.adapter = .spi p) :
    statusOf b =
      { mode := b.modeName, variant := .spi, cfg := statusCfg (.spi p), txQueueLen := b.txQueue.length
        rxReady := decide (0 < p.rxQueue.length), decBufLen := b.dec.buf.length, decEsc := b.dec.esc
        decBad := b.dec.bad, cntTxFrames := b.cntTxFrames, cntRxOverrun := b.cntRxOverrun
        adapter := adapterStatus (.spi p) } := by
  simp only [statusOf, variant_of_spi ha, Block.rxReady, ha]

/-- Settles O11: the record is built from the block, and of its fields only the mode, the record and `rts_out` depend on
the mode. -/
theorem readStatusReportsEveryField : Obligations.ReadStatusReportsEveryField := by
  refine ⟨fun s u ha => ?_, fun s p ha => ?_⟩
  · rw [exec_readStatus, statusOf_uart ha]
    cases hm : u.mode with
    | unconfigured =>
      rw [(modeName_of_uart ha).2 hm, statusCfg_uart_unconfigured hm, adapterStatus, rtsOut_of_unconfigured hm]
      rfl
    | configured c =>
      rw [(modeName_configured_uart ha).2 ⟨c, hm⟩, statusCfg_uart_eq.2 hm, adapterStatus, rtsOut_of_configured hm]
      rfl
  · rw [exec_readStatus, statusOf_spi ha]
    cases hm : p.mode with
    | unconfigured =>
      rw [(modeName_of_spi ha).2 hm, statusCfg_spi_unconfigured hm]
      rfl
    | configured c =>
      rw [(modeName_configured_spi ha).2 ⟨c, hm⟩, statusCfg_spi_eq.2 hm]
      rfl

end Sys2Proof.Machine
end

section
/-! What every operation may answer (60_exceptions R291, R294): a next state with one of its own results, or a fault of
the table's rows. Both are read off the guards and the ends of the meanings in one case split over the operations. -/

namespace Sys2Proof.Machine

open Sys2Proof.Spec

/-- The rows of 60 R294's table that operation `i` meets in state `s`, with the fault each names. -/
def FaultRow (i : Instr) (s : State) (f : Fault) : Prop :=
  (f = .wrongVariant s.stepIndex ∧ ¬ onVariant i s.block) ∨
  (f = .notConfigured s.stepIndex ∧ onVariant i s.block ∧ needsSetup i = true ∧ s.block.common? = none) ∨
  (f = .badFrameLen s.stepIndex ∧ onVariant i s.block ∧ ∃ c, s.block.common? = some c ∧ badLength i c)

/-- The outcome `o` is one the tables of 60 R291 and R294 list for operation `i` in state `s`; a refusal is in neither. -/
structure WithinTables (i : Instr) (s : State) (o : Out) : Prop where
  result : ∀ {t}, o = .next t → mayReturn i t.result = true
  fault : ∀ {f}, o = .fault f → FaultRow i s f

/-! ## The variant an operation exists on -/

theorem onVariant_iff {i : Instr} {v : Variant} (hi : i.variant? = some v) (b : Block) :
    onVariant i b ↔ b.variant = v := by
  simp [onVariant, hi, eq_comm]

theorem uart_of_onVariant {i : Instr} {b : Block} (hi : i.variant? = some .uart) (on : onVariant i b) :
    ∃ u, b.adapter = .uart u := by
  cases ha : b.adapter with
  | uart u => exact ⟨u, rfl⟩
  | spi p => simp [onVariant_iff hi, variant_of_spi ha] at on

theorem spi_of_onVariant {i : Instr} {b : Block} (hi : i.variant? = some .spi) (on : onVariant i b) :
    ∃ p, b.adapter = .spi p := by
  cases ha : b.adapter with
  | uart u => simp [onVariant_iff hi, variant_of_uart ha] at on
  | spi p => exact ⟨p, rfl⟩

/-! ## Each end and each guard stays within the tables -/

section
variable {i : Instr} {s : State}

theorem withinTables_next {t : State} (hr : mayReturn i t.result = true) : WithinTables i s (.next t) :=
  ⟨fun h => Host.Outcome.next.inj h ▸ hr, nofun⟩

theorem withinTables_fault {f : Fault} (hf : FaultRow i s f) : WithinTables i s (.fault f) :=
  ⟨nofun, fun h => Host.Outcome.fault.inj h ▸ hf⟩

theorem withinTables_refused {r : Refusal} : WithinTables i s (.refused r) := ⟨nofun, nofun⟩

theorem withinTables_needUart {k : UartState → Out} (hi : i.variant? = some .uart)
    (h : ∀ u, s.block.adapter = .uart u → onVariant i s.block → WithinTables i s (k u)) :
    WithinTables i s (needUart s k) := by
  cases ha : s.block.adapter with
  | uart u =>
    rw [needUart_of ha]
    exact h u ha ((onVariant_iff hi _).2 (variant_of_uart ha))
  | spi p =>
    have off : ¬ onVariant i s.block := by simp [onVariant_iff hi, variant_of_spi ha]
    rw [needUart_of_variant_ne (by simp [variant_of_spi ha])]
    exact withinTables_fault (.inl ⟨rfl, off⟩)

theorem withinTables_needSpi {k : SpiState → Out} (hi : i.variant? = some .spi)
    (h : ∀ p, s.block.adapter = .spi p → onVariant i s.block → WithinTables i s (k p)) :
    WithinTables i s (needSpi s k) := by
  cases ha : s.block.adapter with
  | uart u =>
    have off : ¬ onVariant i s.block := by simp [onVariant_iff hi, variant_of_uart ha]
    rw [needSpi_of_variant_ne (by simp [variant_of_uart ha])]
    exact withinTables_fault (.inl ⟨rfl, off⟩)
  | spi p =>
    rw [needSpi_of ha]
    exact h p ha ((onVariant_iff hi _).2 (variant_of_spi ha))

theorem withinTables_needCommon {k : CommonCfg → Out} (on : onVariant i s.block) (hn : needsSetup i = true)
    (h : ∀ c, WithinTables i s (k c)) : WithinTables i s (needCommon s k) := by
  cases hc : s.block.common? with
  | none =>
    rw [needCommon_of_none hc]
    exact withinTables_fault (.inr (.inl ⟨rfl, on, hn, hc⟩))
  | some c =>
    rw [needCommon_of hc]
    exact h c

/-- `m` is the mode of either variant, and `common` the common fields of its record. -/
theorem withinTables_needCfg {α : Type} {m : Mode α} {common : α → CommonCfg} {k : α → Out}
    (hm : s.block.common? = m.cfg?.map common) (on : onVariant i s.block) (hn : needsSetup i = true)
    (h : ∀ c, s.block.common? = some (common c) → WithinTables i s (k c)) : WithinTables i s (needCfg s m k) := by
  cases m with
  | unconfigured => exact withinTables_fault (.inr (.inl ⟨rfl, on, hn, hm⟩))
  | configured c => exact h c hm

theorem withinTables_needFrameLen {c : CommonCfg} {f : List Byte} {n : Nat} {k : Out}
    (hc : s.block.common? = some c) (on : onVariant i s.block) (hb : f.length = 0 ∨ n < f.length → badLength i c)
    (h : WithinTables i s k) : WithinTables i s (needFrameLen s f n k) := by
  unfold needFrameLen
  split
  · rename_i bad
    exact withinTables_fault (.inr (.inr ⟨rfl, on, c, hc, hb bad⟩))
  · exact h

end

/-! ## Every operation stays within the tables -/

theorem withinTables_setup (c : CfgArg) (s : State) : WithinTables (.setup c) s (execSetup c s) := by
  unfold execSetup
  split
  · unfold setupUart
    split
    · exact withinTables_next rfl
    · split
      · exact withinTables_refused
      · split <;> exact withinTables_next rfl
  · unfold setupSpi
    split
    · exact withinTables_next rfl
    · split
      · exact withinTables_refused
      · split <;> exact withinTables_next rfl

/-- The guards of a meaning are rows of the table of faults, in its order, and its ends rows of the table of results. -/
theorem exec_withinTables (i : Instr) (s : State) : WithinTables i s (exec i s) := by
  cases i with
  | setup c => exact withinTables_setup c s
  | reset | readStatus | crc16 => exact withinTables_next rfl
  | encodeUart | encodeSpi =>
    exact withinTables_needCommon (.inl rfl) rfl fun _ => by split <;> exact withinTables_next rfl
  | decByte | decodeUart | decodeSpi =>
    exact withinTables_needCommon (.inl rfl) rfl fun _ => withinTables_next rfl
  | uartTrySend f =>
    refine withinTables_needUart rfl fun u ha on => withinTables_needCfg (common_uart ha) on rfl fun c hc =>
      withinTables_needFrameLen hc on (fun bad => .inl ⟨f, rfl, bad⟩) ?_
    split <;> exact withinTables_next rfl
  | spiTrySend f =>
    refine withinTables_needSpi rfl fun p ha on => withinTables_needCfg (common_spi ha) on rfl fun c hc =>
      withinTables_needFrameLen hc on (fun bad => .inr ⟨f, rfl, bad⟩) ?_
    split <;> exact withinTables_next rfl
  | uartPoll =>
    refine withinTables_needUart rfl fun u ha on => withinTables_needCfg (common_uart ha) on rfl fun _ _ => ?_
    split <;> exact withinTables_next rfl
  | spiPoll =>
    refine withinTables_needSpi rfl fun p ha on => withinTables_needCfg (common_spi ha) on rfl fun _ _ => ?_
    split <;> exact withinTables_next rfl
  | uartTxByte => exact withinTables_needUart rfl fun _ _ _ => by split <;> exact withinTables_next rfl
  | uartCtsSet => exact withinTables_needUart rfl fun _ _ _ => withinTables_next rfl
  | spiXfer => exact withinTables_needSpi rfl fun _ _ _ => by split <;> exact withinTables_next rfl
  | uartRxByte =>
    refine withinTables_needUart rfl fun _ _ _ => ?_
    split
    · exact withinTables_next rfl
    · split <;> exact withinTables_next rfl
  | spiCsAssert | spiCsDeassert =>
    refine withinTables_needSpi rfl fun _ _ _ => ?_
    split
    · exact withinTables_next rfl
    · split <;> exact withinTables_next rfl

/-! ## Every row of the table of faults is met (60 R294) -/

section
variable {i : Instr} {s : State}

theorem exec_of_not_onVariant (off : ¬ onVariant i s.block) : exec i s = .fault (.wrongVariant s.stepIndex) := by
  obtain ⟨hn, hv⟩ := not_or.1 off
  obtain ⟨v, hi⟩ := Option.ne_none_iff_exists'.1 hn
  exact exec_of_variant_ne hi fun h => hv (h ▸ hi)

theorem needCfg_of_common_none {α : Type} {m : Mode α} {common : α → CommonCfg} (h : m.cfg?.map common = none)
    (k : α → Out) : needCfg s m k = .fault (.notConfigured s.stepIndex) := by
  cases m with
  | unconfigured => rfl
  | configured c => cases h

theorem exec_of_common_none (on : onVariant i s.block) (hn : needsSetup i = true) (hc : s.block.common? = none) :
    exec i s = .fault (.notConfigured s.stepIndex) := by
  cases i with
  | encodeUart | encodeSpi | decByte | decodeUart | decodeSpi => exact needCommon_of_none hc _
  | uartTrySend | uartPoll =>
    obtain ⟨u, ha⟩ := uart_of_onVariant rfl on
    exact (needUart_of ha _).trans (needCfg_of_common_none (common_uart ha ▸ hc) _)
  | spiTrySend | spiPoll =>
    obtain ⟨p, ha⟩ := spi_of_onVariant rfl on
    exact (needSpi_of ha _).trans (needCfg_of_common_none (common_spi ha ▸ hc) _)
  | setup | reset | readStatus | crc16 | uartTxByte | uartRxByte | uartCtsSet | spiCsAssert | spiXfer | spiCsDeassert =>
    cases hn

theorem exec_of_badLength {c : CommonCfg} (on : onVariant i s.block) (hc : s.block.common? = some c)
    (hb : badLength i c) : exec i s = .fault (.badFrameLen s.stepIndex) := by
  obtain ⟨f, rfl, bad⟩ | ⟨f, rfl, bad⟩ := hb
  · obtain ⟨u, ha⟩ := uart_of_onVariant rfl on
    obtain ⟨d, hm, rfl⟩ := common_eq_of_uart ha hc
    rw [exec_uartTrySend_configured ha hm]
    exact needFrameLen_of_bad bad _
  · obtain ⟨p, ha⟩ := spi_of_onVariant rfl on
    obtain ⟨d, hm, rfl⟩ := common_eq_of_spi ha hc
    rw [exec_spiTrySend_configured ha hm]
    exact needFrameLen_of_bad bad _

theorem exec_of_faultRow {f : Fault} (h : FaultRow i s f) : exec i s = .fault f := by
  obtain ⟨rfl, off⟩ | ⟨rfl, on, hn, hc⟩ | ⟨rfl, on, c, hc, hb⟩ := h
  · exact exec_of_not_onVariant off
  · exact exec_of_common_none on hn hc
  · exact exec_of_badLength on hc hb

end

/-- Settles O51: an operation's guards fault only as a row of the table says, and each row's condition fails the guard
it stands for; a reserved code does not decode. -/
theorem faultsAreExactlyTheTable : Obligations.FaultsAreExactlyTheTable := by
  refine ⟨fun i s f => ⟨(exec_withinTables i s).fault, exec_of_faultRow⟩, fun s code bs f hcode hs => ?_⟩
  rw [step_of_reserved_code hcode hs]
  exact ⟨nofun, _, rfl⟩

/-! ## `held` (41 R183; log 6) -/

theorem UartEffect.disabled_of_held {s : State} {u : UartState} {i : Instr} {b : Block}
    (e : UartEffect s u i b .held) : i = .uartTxByte ∧ txEnabled s.block.txQueue u = false := by
  cases e with
  | same _ _ _ _ held off => exact ⟨held.1 rfl, off (held.1 rfl)⟩

theorem exec_result_eq_held {i : Instr} {s t : State} (h : exec i s = .next t) :
    t.result = .held ↔ i = .uartTxByte ∧ s.txEnabled = false := by
  constructor
  · intro hr
    cases ha : s.block.adapter with
    | uart u =>
      obtain ⟨hi, off⟩ := (hr ▸ exec_uartEffect ha h).disabled_of_held
      exact ⟨hi, (txEnabled_of_uart ha).trans off⟩
    | spi p => exact absurd hr (exec_spiEffect ha h).result_ne_held
  · rintro ⟨rfl, off⟩
    obtain ⟨u, ha, -⟩ := needUart_eq_next.1 h
    rw [exec_uartTxByte_of_disabled ha ((txEnabled_of_uart ha).symm.trans off)] at h
    cases h
    rfl

/-- Settles O52: every end of a meaning is a row of the table of results, and `held` is read off the effect. -/
theorem resultsAreTheOperationsOwn : Obligations.ResultsAreTheOperationsOwn :=
  fun i s _ h => ⟨(exec_withinTables i s).result h, exec_result_eq_held h⟩

/-! ## Availability (60 R300, R302) -/

theorem not_faultRow_of_configured {i : Instr} {s : State} {c : CommonCfg} (hc : s.block.common? = some c)
    (on : onVariant i s.block) (hb : ¬ badLength i c) (f : Fault) : ¬ FaultRow i s f := by
  rintro (⟨-, off⟩ | ⟨-, -, -, hnone⟩ | ⟨-, -, d, hd, bad⟩)
  · exact off on
  · simp [hc] at hnone
  · obtain rfl : c = d := by simpa [hc] using hd
    exact hb bad

theorem exec_ne_refused_of_configured {i : Instr} {s : State} {c : CommonCfg} (hc : s.block.common? = some c)
    (r : Refusal) : exec i s ≠ .refused r := by
  by_cases hi : ∃ a, i = .setup a
  · obtain ⟨a, rfl⟩ := hi
    rw [exec_setup_locked (by simp [Block.modeName, hc])]
    nofun
  · exact exec_ne_refused (not_exists.1 hi)

/-- Settles O60: no row of the table of faults is met, and of all operations only SETUP can be refused, which a
CONFIGURED block answers with CFG_LOCKED. -/
theorem configuredOperationsAlwaysComplete : Obligations.ConfiguredOperationsAlwaysComplete := by
  intro i s c hc on hb
  cases h : exec i s with
  | next t => exact ⟨t, rfl⟩
  | fault f => exact absurd ((exec_withinTables i s).fault h) (not_faultRow_of_configured hc on hb f)
  | refused r => exact absurd h (exec_ne_refused_of_configured hc r)

end Sys2Proof.Machine
end

section
/-! The instance at power-on (70_reset_and_hazards R320): its elements, and that the invariant starts there. -/

namespace Sys2Proof.Machine

open Sys2Proof.Safety

/-! ## The derived outputs -/

theorem powerOn_rxReady (v : Variant) (n : Nat) : (State.powerOn v n).block.rxReady = false := by
  cases v <;> rfl

/-- Settles O7: the blocks are the table's by definition, the outputs follow from the empty queues and the missing
record; the mode is the first part of `modeMovesOnlyBySetupAndReset`. -/
theorem powerOnState : Obligations.PowerOnState := by
  obtain ⟨unconfigured, -⟩ := modeMovesOnlyBySetupAndReset
  exact fun n => ⟨rfl, rfl, rfl, fun v => ⟨powerOn_rxReady v n, (unconfigured v n).1⟩⟩

/-! ## The invariant -/

theorem powerOn_blockCleared (v : Variant) (n : Nat) : BlockCleared (Block.powerOn v n) := ⟨rfl, rfl, rfl, rfl⟩

/-- Power-on is the cleared state of the UNCONFIGURED mode, on either variant. -/
theorem powerOn_machineInv (v : Variant) {n : Nat} (hn : 0 < n) : MachineInv (State.powerOn v n) := by
  cases v with
  | uart => exact blockInv_of_uartCleared rfl rfl hn (powerOn_blockCleared .uart n) rfl rfl
  | spi =>
    exact blockInv_of_spiCleared rfl rfl hn (powerOn_blockCleared .spi n)
      (SpiState.cleared_spiCleared SpiState.powerOn .unconfigured)

/-- No line holds before the first operation. -/
theorem powerOn_lineInv (v : Variant) (n : Nat) : LineInv (State.powerOn v n) := by
  intro held
  cases held

/-- Settles O49: power-on meets both invariants, and `State.reset` is the UART instance's with 16 trigger ids. -/
theorem invariantHoldsAtPowerOn : Obligations.InvariantHoldsAtPowerOn :=
  ⟨fun v _ hn => powerOn_machineInv v hn, powerOn_machineInv .uart (by decide), powerOn_lineInv,
    powerOn_lineInv .uart 16⟩

end Sys2Proof.Machine
end
